-- ==== Sys2Proof/Word.lean ====
section
/-!
DEFINITION. The words of the wire, the four bays, and a record of one thing per bay.
-/

namespace Sys2Proof

/-- One byte of a frame (10_bay_ports_and_service_port.md, Wire Layouts). -/
abbrev Byte := BitVec 8

/-- A two-byte field of a frame, and a capture of the 16-bit counter (R125). -/
abbrev Word16 := BitVec 16

/-- A converter code, 0 to 4095 (R132). -/
abbrev Code := BitVec 12

/-- The bays are numbered 0 to 3 (00_scope.md, Names). -/
abbrev Bay := Fin 4

/-- The analog channels are numbered 0 to 18 (00_scope.md, Names). -/
abbrev ChannelNo := Fin 19

/-- One `α` for each bay. -/
structure PerBay (α : Type) where
  b0 : α
  b1 : α
  b2 : α
  b3 : α
deriving DecidableEq, Repr

namespace PerBay

/-- The same value for every bay. -/
def fill {α : Type} (x : α) : PerBay α := ⟨x, x, x, x⟩

/-- What bay `k` has. -/
def get {α : Type} (v : PerBay α) (k : Bay) : α :=
  match k with
  | 0 => v.b0
  | 1 => v.b1
  | 2 => v.b2
  | 3 => v.b3

/-- `v` with bay `k`'s value replaced. -/
def set {α : Type} (v : PerBay α) (k : Bay) (x : α) : PerBay α :=
  match k with
  | 0 => { v with b0 := x }
  | 1 => { v with b1 := x }
  | 2 => { v with b2 := x }
  | 3 => { v with b3 := x }

/-- `v` with `f` applied to bay `k`'s value. -/
def modify {α : Type} (v : PerBay α) (k : Bay) (f : α → α) : PerBay α := v.set k (f (v.get k))

/-- `f` applied to every bay's value. -/
def map {α β : Type} (f : α → β) (v : PerBay α) : PerBay β := ⟨f v.b0, f v.b1, f v.b2, f v.b3⟩

/-- A value made from each bay's number. -/
def ofFn {α : Type} (f : Bay → α) : PerBay α := ⟨f 0, f 1, f 2, f 3⟩

end PerBay

end Sys2Proof
end

