-- ==== Sys2Proof/Config.lean ====
section
/-!
DEFINITION. What stands at the part's inputs, and the levels the model takes at the first power-on.

The spec leaves no value undefined, so there is no free value here.
-/

namespace Sys2Proof

/-- The levels of the six debounced inputs: a door input is high while its door is open (R18), a probe reads
WET or DRY (R103). -/
structure Lines where
  doorHigh : PerBay Bool
  lowWet   : Bool
  highWet  : Bool
deriving DecidableEq, Repr

/-- What a reset finds: the debounced inputs, sampled once and without debounce (R18, R103), the ADDR strap (R170), and the
ports whose master is clocking a read as the reset comes (R175). -/
structure Pins where
  lines       : Lines
  addrHigh    : Bool
  bayRead     : PerBay Bool
  serviceRead : Bool
deriving DecidableEq, Repr

/-- The levels sampled by the power-on reset that `State.reset` stands for: doors closed, both probes wet, ADDR low,
and no read on any bus. DESIGN CHOICE (log 8): the spec cannot say what stands at the pins. -/
def Config.firstPins : Pins where
  lines := { doorHigh := PerBay.fill false, lowWet := true, highWet := true }
  addrHigh := false
  bayRead := PerBay.fill false
  serviceRead := false

end Sys2Proof
end

