-- ==== Sys2Proof/Syntax.lean ====
section
/-!
DEFINITION. The commands and events of spec/opcode_table.json, one constructor for each row. The table gives the rows no
operands; these are the ones the rules name. A bit-field operand has the width it has on the wire or in the converter.
-/

namespace Sys2Proof

/-- The five ports: BP0 to BP3 and SP (R170). -/
inductive Port where
  | bay (k : Bay)
  | service
deriving DecidableEq, Repr

/-- Who issues a bay command (R176): a bay port, for its own bay and with no bay number, or the service port, whose first
parameter byte names the bay. -/
inductive Origin where
  | panel (k : Bay)
  | main (bayByte : Byte)
deriving DecidableEq, Repr

/-- One constructor for each row of the table. -/
inductive Instr where
  /-- POWER_ON_RESET: the levels sampled, and whether RESETN is still low as the reset ends (R179). -/
  | powerOnReset (pins : Pins) (resetnLow : Bool)
  /-- RESETN_RESET: RESETN held low for at least 10 µs (R179). -/
  | resetnReset (pins : Pins)
  /-- FRAME_REFUSED: the bytes the master wrote, in order (R171, R172). -/
  | frameRefused (p : Port) (written : List Byte)
  /-- LOAD_RECIPE: slot, water estimate in g. -/
  | loadRecipe (o : Origin) (slot : Byte) (water : Word16)
  /-- LOAD_PROGRAM: water estimate in g, the bytes offered as the record. -/
  | loadProgram (o : Origin) (water : Word16) (record : List Byte)
  /-- START -/
  | start (o : Origin)
  /-- ABORT -/
  | abort (o : Origin)
  /-- SKIP_STEP -/
  | skipStep (o : Origin)
  /-- CLEAR -/
  | clear (o : Origin)
  /-- READ_BAY -/
  | readBay (o : Origin)
  /-- READ_PLANT -/
  | readPlant (p : Port)
  /-- READ_RECIPE -/
  | readRecipe (p : Port) (slot : Byte)
  /-- READ_NOTICES -/
  | readNotices (p : Port)
  /-- SET_NOTICE_MASK: one enable per kind (Wire Layouts). -/
  | setNoticeMask (p : Port) (mask : Word16)
  /-- SET_PLANT: the settings record, 40 bytes. -/
  | setPlant (p : Port) (record : List Byte)
  /-- COMMISSION -/
  | commission (p : Port)
  /-- SET_BUDGET: W. -/
  | setBudget (p : Port) (watts : Word16)
  /-- SET_ARBITRATION: ROTATING 0, FIXED 1. -/
  | setArbitration (p : Port) (mode : Byte)
  /-- PROMOTE -/
  | promote (p : Port) (bay : Byte)
  /-- MASK -/
  | mask (p : Port) (bay : Byte)
  /-- UNMASK -/
  | unmask (p : Port) (bay : Byte)
  /-- CLEAR_TRIP -/
  | clearTrip (p : Port)
  /-- WRITE_RECIPE: slot, the bytes offered as the record. -/
  | writeRecipe (p : Port) (slot : Byte) (record : List Byte)
  /-- ERASE_RECIPE -/
  | eraseRecipe (p : Port) (slot : Byte)
  /-- ERASE_LIBRARY -/
  | eraseLibrary (p : Port)
  /-- SET_TRIM: channel, signed trim. -/
  | setTrim (p : Port) (channel : Byte) (trim : Byte)
  /-- READ_CHANNELS -/
  | readChannels (p : Port)
  /-- RESET_PART: the levels the reset samples (R18, R103, R170). -/
  | resetPart (p : Port) (pins : Pins)
  /-- LIBRARY_PHASE_END -/
  | libraryPhaseEnd
  /-- LIBRARY_COMPLETION -/
  | libraryCompletion
  /-- TICK: the levels seen at the debounced inputs on this tick; `none`: the levels of the tick before (log 10). -/
  | tick (lines : Option Lines)
  /-- SCAN_START -/
  | scanStart
  /-- CONVERSION_END: the code of the channel being converted. -/
  | conversionEnd (code : Code)
  /-- SCAN_COMPLETE: the code of channel 18, whose end of conversion it is (R132). -/
  | scanComplete (code : Code)
  /-- WAIT_TIMEOUT -/
  | waitTimeout (k : Bay)
  /-- STEP_ENDS_ON_LIMIT -/
  | stepEndsOnLimit (k : Bay)
  /-- BLOCKING_BY_AGE -/
  | blockingByAge (k : Bay)
  /-- DOOR_OPENING, debounced. -/
  | doorOpening (k : Bay)
  /-- DOOR_CLOSING, debounced. -/
  | doorClosing (k : Bay)
  /-- PURGE_END -/
  | purgeEnd (k : Bay)
  /-- LOW_PROBE_DRY, debounced. -/
  | lowProbeDry
  /-- LOW_PROBE_WET, debounced. -/
  | lowProbeWet
  /-- HIGH_PROBE_WET, debounced. -/
  | highProbeWet
  /-- HIGH_PROBE_DRY, debounced. -/
  | highProbeDry
  /-- FILL_TIMEOUT -/
  | fillTimeout
  /-- DRY_FIRE -/
  | dryFire
  /-- DWELL_ELAPSED -/
  | dwellElapsed
  /-- WARM_HOLD_EXPIRY -/
  | warmHoldExpiry
  /-- MIN_OFF_EXPIRY -/
  | minOffExpiry
  /-- MIN_RUN_EXPIRY -/
  | minRunExpiry
  /-- DAMPER_TRAVEL_END -/
  | damperTravelEnd (k : Bay)
  /-- TACHOMETER_EDGE: the capture of the 1 µs counter (R125). -/
  | tachometerEdge (k : Bay) (capture : Word16)
  /-- SILENCE_TIMEOUT -/
  | silenceTimeout (k : Bay)
  /-- SPIN_UP_ELAPSED -/
  | spinUpElapsed (k : Bay)
  /-- DRAIN_PROGRESS_CHECK -/
  | drainProgressCheck
  /-- WRITE_START: the 7-bit address of the START (R170). -/
  | writeStart (p : Port) (address : BitVec 7)
  /-- EMPTY_WRITE -/
  | emptyWrite (p : Port)
deriving DecidableEq, Repr

namespace Origin

/-- The port a bay command is issued on. -/
def port : Origin → Port
  | .panel k => .bay k
  | .main _ => .service

/-- The bay operand as it stands in the frame: nothing from a bay port, one byte from the service port. -/
def operand : Origin → List Byte
  | .panel _ => []
  | .main b => [b]

/-- The bay a command that has passed check 5 of R172 acts on. -/
def bay : Origin → Bay
  | .panel k => k
  | .main b => ⟨b.toNat % 4, Nat.mod_lt _ (by decide)⟩

end Origin

end Sys2Proof
end

