-- ==== Sys2Proof/Machine/Params.lean ====
section
/-!
DEFINITION. The fixed times, thresholds and tables of the part, each as its rule gives it. A time paced by the 10 ms tick is
counted in ticks.
-/

namespace Sys2Proof.Machine.Params

/-- Ticks in one second (00_scope.md: timers named in seconds are paced by the 10 ms tick). -/
abbrev ticksPerSecond : Nat := 100

/-- Consecutive ticks of a changed level that make a debounced event, 50 ms (R18, R103). -/
abbrev debounceTicks : Nat := 5

/-- The scan phase that starts a scan, 2.000 s (R131). -/
abbrev scanPeriod : Nat := 200

/-- Purge of an OVERHEAT halt, 120 s (R45). -/
abbrev purgeTicks : Nat := 12000

/-- The overheat run that halts (R44). -/
abbrev overheatScans : Nat := 5

/-- Fan level of a purge with the door closed (R25). -/
abbrev purgeFanLevel : Nat := 15

/-- Highest bypass count, at which an entry is blocking (R53, R54). -/
abbrev bypassLimit : Nat := 3

/-- Ready threshold of the boiler, 105.0 °C (R92, R93, R30). -/
abbrev boilerReady : Int := 1050

/-- Heater on below 120.0 °C (R96). -/
abbrev heaterOnBelow : Int := 1200

/-- Heater off at or above 125.0 °C (R96). -/
abbrev heaterOffFrom : Int := 1250

/-- Overtemperature trip above 140.0 °C (R106). -/
abbrev boilerTripAbove : Int := 1400

/-- CLEAR_TRIP accepted below 100.0 °C (R109). -/
abbrev clearTripBelow : Int := 1000

/-- Valve reopening margin below the target, 2.0 %RH (R98). -/
abbrev valveMargin : Int := 20

/-- Fill timeout, 20 s (R105). -/
abbrev fillTicks : Nat := 2000

/-- Dry-fire time to trip, 5 s (R107). -/
abbrev dryFireTicks : Nat := 500

/-- Damper travel, each direction, 6 s (R120). -/
abbrev damperTicks : Nat := 600

/-- Half width of the reheater band, 0.5 °C (R121, R122). -/
abbrev reheatBand : Int := 5

/-- Ticks of tachometer silence that make P invalid, 500 ms (R126). -/
abbrev silenceTicks : Nat := 50

/-- Fan spin-up before stall supervision, 3 s (R126). -/
abbrev spinUpTicks : Nat := 300

/-- Shortest tachometer period accepted, in µs (R125). -/
abbrev minPeriod : Nat := 200

/-- Low rail: a raw code at or below this (R135). -/
abbrev railLow : Nat := 8

/-- High rail: a raw code at or above this (R135). -/
abbrev railHigh : Nat := 4087

/-- Scans in a row that change a fault state (R135). -/
abbrev faultScans : Nat := 3

/-- Largest trim either way (R139). -/
abbrev trimLimit : Int := 63

/-- Largest estimate M, in mg (R150). -/
abbrev maxM : Int := 8000000

/-- Entries of a full window (R151). -/
abbrev windowSize : Nat := 8

/-- Scan interval in µs (R148). -/
abbrev scanMicros : Nat := 2000000

/-- Largest air volume used, in mL (R148). -/
abbrev maxVolume : Nat := 400000

/-- Run time of the drain pump to its progress check, 120 s (R165). -/
abbrev drainTicks : Nat := 12000

/-- Fall of the condensate level that passes the progress check (R165). -/
abbrev drainFall : Nat := 50

/-- The counter's advance in one tick, 10 ms at 1 µs (00_scope.md, time base; R111). -/
abbrev microsPerTick : Word16 := 10000

/-- The receive buffer, in bytes (R171). -/
abbrev rxBytes : Nat := 112

/-- Largest parameter length L (R172). -/
abbrev maxL : Nat := 108

/-- The saturation densities of R146, index 0 to 20. -/
def densityTable : List Nat :=
  [2140, 3240, 4850, 6800, 9400, 12830, 17300, 23050, 30380, 39630, 51190,
   65500, 83060, 104400, 130200, 161200, 198100, 241800, 293300, 353500, 423600]

end Sys2Proof.Machine.Params
end

