-- ==== Sys2Proof/Machine/State.lean ====
section
/-!
DEFINITION. The state of the part, block by block as 00_scope.md divides it, and the state after reset.

Counts, times, powers and levels are numbers; what the wire or the converter gives as bits is a bit vector. A thing the spec
names as one block's copy of another block's is stored once and read through a view (log 11).
-/

namespace Sys2Proof.Machine

/-! ## Programs (01) -/

/-- The five step kinds. -/
inductive StepKind where
  | steam
  | settle
  | dry
  | refresh
  | cool
deriving DecidableEq, Repr

/-- A step record by its named fields (01, Step Record). The target is signed only in a COOL step (R4). -/
structure StepRecord where
  kind     : StepKind
  fanLevel : Nat
  flags    : Byte
  duration : Nat
  target   : Int
  airTemp  : Nat
deriving DecidableEq, Repr

/-- A program record; the step count is the number of steps (01, Program Record). -/
structure Program where
  fabricLimit : Nat
  rateFloor   : Nat
  steps       : List StepRecord
deriving DecidableEq, Repr

/-! ## Recipe library (01, R5, R6) -/

/-- The phases of WRITE_RECIPE. -/
inductive WritePhase where
  | erasing
  | programming
  | marking
deriving DecidableEq, Repr

/-- The operation state of R6. -/
inductive LibraryOp where
  | idle
  | writing (slot : Fin 16) (phase : WritePhase) (record : Program)
  | erasing (slot : Fin 16)
  | erasingAll (slot : Fin 16)
deriving DecidableEq, Repr

/-- Sixteen slots, each EMPTY (`none`) or VALID with a normalized record, and the operation state. -/
structure Library where
  slots : Vector (Option Program) 16
  op    : LibraryOp
deriving DecidableEq, Repr

/-! ## Bay sequencers (02) -/

inductive BayState where
  | idle
  | loaded
  | await
  | active
  | held
  | finished
  | halted
deriving DecidableEq, Repr

/-- Where the working program came from. -/
inductive Source where
  | slot (n : Fin 16)
  | inlined
deriving DecidableEq, Repr

/-- The bay's part of the grant table (02, Bay Context). -/
inductive GrantHeld where
  | none
  | steam
  | dry
  | dryReheat
  | dryPending
deriving DecidableEq, Repr

/-- The outcome field of the bay context. -/
inductive Ending where
  | none
  | complete
  | underdry
  | aborted
  | halted
deriving DecidableEq, Repr

inductive BayFault where
  | overheat
  | fanStall
  | sensorFault
  | waitTimeout
deriving DecidableEq, Repr

inductive Door where
  | shut
  | opened
deriving DecidableEq, Repr

/-- The bay context of 02. `limitReached` and `waitReached` are the model's own marks: the tick has brought the timer to its
end and the expiry row that the table gives it has not been taken yet (log 2). The grant held is a view of the arbiter's
table. -/
structure BayContext where
  state          : BayState
  program        : Option Program
  source         : Option Source
  stepIndex      : Nat
  stepRemaining  : Nat
  waitElapsed    : Nat
  outcome        : Ending
  fault          : Option BayFault
  underdry       : Bool
  door           : Door
  overheatRun    : Nat
  purgeRemaining : Option Nat
  limitReached   : Bool
  waitReached    : Bool
deriving DecidableEq, Repr

/-! ## Plant arbiter (03, 04) -/

inductive Commissioning where
  | uncommissioned
  | commissioned
deriving DecidableEq, Repr

inductive Reheat where
  | notAsked
  | on
  | pending
deriving DecidableEq, Repr

/-- A held DRY slot: its holder and reheat status (R51). -/
structure DrySlot where
  bay    : Bay
  reheat : Reheat
deriving DecidableEq, Repr

inductive Resource where
  | steam
  | dry
deriving DecidableEq, Repr

/-- How far an entry has come toward blocking by age (R54): not there; its age has been reached on a tick, so that it is
blocking, and BLOCKING_BY_AGE is still to be taken; taken. -/
inductive AgeMark where
  | young
  | reached
  | blocking
deriving DecidableEq, Repr

/-- An entry of the request list; its bay is its place in `requests` (03, Request List). -/
structure Entry where
  resource : Resource
  boost    : Bool
  age      : Nat
  bypass   : Nat
  ageMark  : AgeMark
deriving DecidableEq, Repr

inductive ArbMode where
  | rotating
  | fixed
deriving DecidableEq, Repr

/-- The settings record of SET_PLANT (R178). -/
structure Settings where
  baseReserve    : Nat
  steamDraw      : Nat
  compressorDraw : Nat
  reheaterDraw   : Nat
  dwell          : Nat
  warmHold       : Nat
  minOff         : Nat
  minRun         : Nat
  waitTimeout    : Nat
  starvationAge  : Nat
  duct           : PerBay Nat
  reservoirLow   : Nat
  reservoirResume : Nat
  condensateFull : Nat
  condensateResume : Nat
  drainFitted    : Bool
  drainOn        : Nat
  drainOff       : Nat
deriving DecidableEq, Repr

/-- The defaults of R178. -/
def Settings.defaults : Settings where
  baseReserve := 250
  steamDraw := 1800
  compressorDraw := 700
  reheaterDraw := 400
  dwell := 8
  warmHold := 120
  minOff := 180
  minRun := 120
  waitTimeout := 1800
  starvationAge := 300
  duct := PerBay.fill 120
  reservoirLow := 150
  reservoirResume := 200
  condensateFull := 900
  condensateResume := 800
  drainFitted := false
  drainOn := 700
  drainOff := 300

/-- The arbiter's state (03, Arbiter State). `evalOwed` is the model's own mark that the event in hand has brought a change
of R62, so that one evaluation closes it; between events it is false (log 20). -/
structure Arbiter where
  commissioning : Commissioning
  steamRow      : Option Bay
  slotA         : Option DrySlot
  slotB         : Option DrySlot
  requests      : PerBay (Option Entry)
  ring          : List Bay
  mode          : ArbMode
  masks         : PerBay Bool
  budget        : Nat
  committed     : Nat
  settings      : Settings
  evalOwed      : Bool
deriving DecidableEq, Repr

/-! ## Steam unit (05) -/

inductive GenState where
  | off
  | heating
  | ready
  | delivering
  | warmHold
  | tripped
deriving DecidableEq, Repr

inductive TripCause where
  | none
  | overtemp
  | dryFire
  | fillTimeout
  | sensor
deriving DecidableEq, Repr

inductive Probe where
  | wet
  | dry
deriving DecidableEq, Repr

/-- The steam unit's state (05, Steam Unit State). A valve is `true` when OPEN; `fill` is `none` for IDLE and the fill
elapsed while FILLING. Its holder is the arbiter's STEAM row. -/
structure SteamUnit where
  gen            : GenState
  heater         : Bool
  valves         : PerBay Bool
  dwellBay       : Option Bay
  dwellRemaining : Nat
  warmHold       : Option Nat
  fill           : Option Nat
  dryFire        : Nat
  lowProbe       : Probe
  highProbe      : Probe
  tripCause      : TripCause
deriving DecidableEq, Repr

/-! ## Drying circuit (06) -/

inductive CompState where
  | off
  | startWait
  | running
  | tail
deriving DecidableEq, Repr

inductive Damper where
  | closed
  | opening
  | opened
  | closing
deriving DecidableEq, Repr

/-- A fan's tachometer record (06, Drying Circuit State); `none` is absent or invalid. -/
structure Tacho where
  reference : Option Word16
  period    : Option Nat
  silence   : Nat
  spinUp    : Option Nat
  stalled   : Bool
deriving DecidableEq, Repr

/-- A bay's air handling: damper, reheater (`true` ON), vent flap (`true` OPEN), fan and tachometer. `reportDue` is the model's own
mark that the tick has found the fan stalled and its FAN_STALL report has not been taken, which a fan commanded off in between does
not undo (R47; log 28). -/
structure AirBay where
  damper    : Damper
  travel    : Nat
  reheater  : Bool
  vent      : Bool
  fanLevel  : Nat
  tacho     : Tacho
  reportDue : Bool
deriving DecidableEq, Repr

/-- The drying circuit's state. Its holders are the arbiter's DRY slots. -/
structure DryingCircuit where
  comp   : CompState
  minOff : Nat
  minRun : Option Nat
  speed  : Nat
  air    : PerBay AirBay
deriving DecidableEq, Repr

/-! ## Sensor scanner (07) -/

/-- One analog channel (07, Scanner State). -/
structure Channel where
  trim     : Int
  latched  : Int
  inFlight : Option Code
  raw      : Code
  value    : Int
  faulted  : Bool
  run      : Nat
deriving DecidableEq, Repr

/-- The scanner; `converting` is `none` for scan state IDLE. -/
structure Scanner where
  phase      : Nat
  converting : Option ChannelNo
  count      : Nat
  channels   : Vector Channel 19
deriving DecidableEq, Repr

/-! ## Moisture estimators (08) -/

/-- One bay's estimator: M in mg, the window oldest first, validity. -/
structure Estimator where
  m      : Int
  window : List Int
  valid  : Bool
deriving DecidableEq, Repr

/-! ## Water inventory (09) -/

inductive PumpState where
  | off
  | running
  | fault
deriving DecidableEq, Repr

/-- The water inventory's state; a latch is `true` when SET. -/
structure WaterInventory where
  reservoirLevel  : Int
  reservoirLow    : Bool
  condensateLevel : Int
  condensateFull  : Bool
  pump            : PumpState
  drainStart      : Option Int
  drainRun        : Option Nat
  drainFault      : Bool
deriving DecidableEq, Repr

/-! ## Ports (10) -/

/-- The status codes of 10. -/
inductive Status where
  | ok
  | pending
  | unknownCommand
  | badLength
  | badValue
  | wrongState
  | locked
  | slotEmpty
  | slotBusy
  | notPermitted
deriving DecidableEq, Repr

/-- A reply: status and data bytes (R173). -/
structure Reply where
  status : Status
  data   : List Byte
deriving DecidableEq, Repr

/-- The port states. RECEIVING keeps the state before the write, to which an empty write returns (R171): `wasReady` when
that was REPLY_READY, else IDLE. -/
inductive PortPhase where
  | idle
  | receiving (wasReady : Bool)
  | pending
  | replyReady
deriving DecidableEq, Repr

/-- A notice set (R180): for each bay kind its bay set, bay `j` in bit `j`, the kind being present when the set is not empty;
for each plant kind whether it is present. -/
structure NoticeSet where
  step     : BitVec 4
  grant    : BitVec 4
  finish   : BitVec 4
  halt     : BitVec 4
  door     : BitVec 4
  waterLow : Bool
  tankFull : Bool
  shed     : Bool
  trip     : Bool
  library  : Bool
deriving DecidableEq, Repr

/-- One port. The mask holds one enable per kind, at the kind's bit of Wire Layouts (R181). `readAtReset` says that a read was in
progress on the port when the last reset came (R175). -/
structure PortRec where
  phase       : PortPhase
  rx          : List Byte
  overrun     : Bool
  reply       : Option Reply
  notices     : NoticeSet
  mask        : BitVec 10
  readAtReset : Bool
deriving DecidableEq, Repr

structure Ports where
  bay     : PerBay PortRec
  service : PortRec
deriving DecidableEq, Repr

/-! ## The part -/

inductive ResetCause where
  | powerOn
  | pin
  | command
deriving DecidableEq, Repr

/-- A debounced input: the level last sampled, and the ticks for which it has differed from the state taken (R18, R103). -/
structure Debounce where
  level : Bool
  run   : Nat
deriving DecidableEq, Repr

structure Inputs where
  door : PerBay Debounce
  low  : Debounce
  high : Debounce
deriving DecidableEq, Repr

/-- The part: its blocks, the time base's 1 µs counter, its inputs, and the commands that are waiting. -/
structure State where
  ports      : Ports
  library    : Library
  bays       : PerBay BayContext
  arb        : Arbiter
  steam      : SteamUnit
  dry        : DryingCircuit
  scan       : Scanner
  est        : PerBay Estimator
  water      : WaterInventory
  counter    : Word16
  inputs     : Inputs
  resetCause : ResetCause
  addrHigh   : Bool
  pending    : List Instr
deriving DecidableEq, Repr

/-- No command of the table stops the machine: what the spec refuses it answers in a reply (R172), and its halts, trips and
latches are states. So no fault exists. -/
inductive Fault where
deriving DecidableEq, Repr

/-- A command with no meaning. -/
inductive Refusal where
  /-- Raised by an arm of `exec` whose command has no meaning yet; no arm is one. Safe: it stops where the part goes on. -/
  | notModelled (mnemonic : String)
deriving DecidableEq, Repr

/-! ## Reset (R17, R48, R91, R111, R130, R141, R158, R175) -/

/-- The bay context after a reset; the door field is the sample of the door input (R17, R18). -/
def BayContext.afterReset (doorHigh : Bool) : BayContext where
  state := .idle
  program := none
  source := none
  stepIndex := 0
  stepRemaining := 0
  waitElapsed := 0
  outcome := .none
  fault := none
  underdry := false
  door := if doorHigh then .opened else .shut
  overheatRun := 0
  purgeRemaining := none
  limitReached := false
  waitReached := false

/-- The arbiter after a reset (R48); the committed draw is the base reserve (R73). -/
def Arbiter.afterReset : Arbiter where
  commissioning := .uncommissioned
  steamRow := none
  slotA := none
  slotB := none
  requests := PerBay.fill none
  ring := [0, 1, 2, 3]
  mode := .rotating
  masks := PerBay.fill false
  budget := 3000
  committed := Settings.defaults.baseReserve
  settings := Settings.defaults
  evalOwed := false

/-- The steam unit after a reset (R91): the probes are sampled (R103), and a fill starts if the low probe reads DRY (R104). -/
def SteamUnit.afterReset (lines : Lines) : SteamUnit where
  gen := .off
  heater := false
  valves := PerBay.fill false
  dwellBay := none
  dwellRemaining := 0
  warmHold := none
  fill := if lines.lowWet then none else some 0
  dryFire := 0
  lowProbe := if lines.lowWet then .wet else .dry
  highProbe := if lines.highWet then .wet else .dry
  tripCause := .none

/-- A tachometer record of a fan commanded off (R111, R126). -/
def Tacho.cleared : Tacho where
  reference := none
  period := none
  silence := 0
  spinUp := none
  stalled := false

def AirBay.afterReset : AirBay where
  damper := .closed
  travel := 0
  reheater := false
  vent := false
  fanLevel := 0
  tacho := Tacho.cleared
  reportDue := false

/-- The drying circuit after a reset (R111): min-off is started full at its default. -/
def DryingCircuit.afterReset : DryingCircuit where
  comp := .off
  minOff := Settings.defaults.minOff * Params.ticksPerSecond
  minRun := none
  speed := 0
  air := PerBay.fill AirBay.afterReset

def Channel.afterReset : Channel where
  trim := 0
  latched := 0
  inFlight := none
  raw := 0
  value := 0
  faulted := false
  run := 0

/-- The scanner after a reset (R130). -/
def Scanner.afterReset : Scanner where
  phase := 0
  converting := none
  count := 0
  channels := Vector.replicate 19 Channel.afterReset

/-- An estimator after a reset (R141). -/
def Estimator.afterReset : Estimator where
  m := 0
  window := []
  valid := false

/-- The water inventory after a reset (R158). -/
def WaterInventory.afterReset : WaterInventory where
  reservoirLevel := 0
  reservoirLow := false
  condensateLevel := 0
  condensateFull := false
  pump := .off
  drainStart := none
  drainRun := none
  drainFault := false

def NoticeSet.empty : NoticeSet where
  step := 0
  grant := 0
  finish := 0
  halt := 0
  door := 0
  waterLow := false
  tankFull := false
  shed := false
  trip := false
  library := false

/-- A port after a reset (R175): IDLE, buffers and notice set empty, every kind enabled. A write that the reset cut is
discarded with its bytes; of a read that it cut the port keeps that there was one. -/
def PortRec.afterReset (reading : Bool) : PortRec where
  phase := .idle
  rx := []
  overrun := false
  reply := none
  notices := NoticeSet.empty
  mask := BitVec.allOnes 10
  readAtReset := reading

def Ports.afterReset (pins : Pins) : Ports where
  bay := pins.bayRead.map PortRec.afterReset
  service := PortRec.afterReset pins.serviceRead

/-- The inputs after a reset: the levels sampled, no debounce running (R18, R103). -/
def Inputs.afterReset (lines : Lines) : Inputs where
  door := lines.doorHigh.map fun h => { level := h, run := 0 }
  low := { level := lines.lowWet, run := 0 }
  high := { level := lines.highWet, run := 0 }

/-- The part as a reset leaves it, given the reset cause, the levels sampled and the library's slots (R179). The slots keep
their content as R15 resolves it, no slot is BUSY and the operation state is IDLE (R16). -/
def State.afterReset (cause : ResetCause) (pins : Pins) (slots : Vector (Option Program) 16) : State where
  ports := Ports.afterReset pins
  library := { slots := slots, op := .idle }
  bays := pins.lines.doorHigh.map BayContext.afterReset
  arb := Arbiter.afterReset
  steam := SteamUnit.afterReset pins.lines
  dry := DryingCircuit.afterReset
  scan := Scanner.afterReset
  est := PerBay.fill Estimator.afterReset
  water := WaterInventory.afterReset
  counter := 0
  inputs := Inputs.afterReset pins.lines
  resetCause := cause
  addrHigh := pins.addrHigh
  pending := []

/-- The machine right after its first power-on reset: a delivered part, all slots EMPTY (R5), with the levels of
`Config.firstPins` at its inputs (DESIGN CHOICE, log 8), and no command waiting. -/
def State.reset : State := State.afterReset .powerOn Config.firstPins (Vector.replicate 16 none)

end Sys2Proof.Machine
end

