-- ==== Sys2Proof/Machine/Ops.lean ====
section
/-!
DEFINITION. The named operations: clamping, the places of State, notices and replies, the bay's demands on the air handling.
-/

namespace Sys2Proof.Machine

/-! ## Arithmetic (00_scope.md, Arithmetic) -/

/-- A value below the range is replaced by its lower end, one above it by its upper end. -/
def clampNat (lo hi x : Nat) : Nat := if x < lo then lo else if hi < x then hi else x

def clampInt (lo hi x : Int) : Int := if x < lo then lo else if hi < x then hi else x

/-- A signed byte, −128 to 127 (R139). -/
def signedByte (b : Byte) : Int := b.toInt

/-! ## The places of State -/

namespace State

def bay (s : State) (k : Bay) : BayContext := s.bays.get k

def mapBay (k : Bay) (f : BayContext → BayContext) (s : State) : State := { s with bays := s.bays.modify k f }

def mapArb (f : Arbiter → Arbiter) (s : State) : State := { s with arb := f s.arb }

def mapSteam (f : SteamUnit → SteamUnit) (s : State) : State := { s with steam := f s.steam }

def mapDry (f : DryingCircuit → DryingCircuit) (s : State) : State := { s with dry := f s.dry }

def mapScan (f : Scanner → Scanner) (s : State) : State := { s with scan := f s.scan }

def mapEst (k : Bay) (f : Estimator → Estimator) (s : State) : State := { s with est := s.est.modify k f }

def mapWater (f : WaterInventory → WaterInventory) (s : State) : State := { s with water := f s.water }

def mapLibrary (f : Library → Library) (s : State) : State := { s with library := f s.library }

def mapInputs (f : Inputs → Inputs) (s : State) : State := { s with inputs := f s.inputs }

def air (s : State) (k : Bay) : AirBay := s.dry.air.get k

def mapAir (k : Bay) (f : AirBay → AirBay) (s : State) : State :=
  s.mapDry fun d => { d with air := d.air.modify k f }

/-- A channel as the latest scan complete left it (R137). -/
def chan (s : State) (n : ChannelNo) : Channel := s.scan.channels[n]

/-- The record of one port. -/
def port (s : State) : Port → PortRec
  | .bay k => s.ports.bay.get k
  | .service => s.ports.service

def mapPort (p : Port) (f : PortRec → PortRec) (s : State) : State :=
  match p with
  | .bay k => { s with ports := { s.ports with bay := s.ports.bay.modify k f } }
  | .service => { s with ports := { s.ports with service := f s.ports.service } }

end State

/-- Channel 4k + j of bay k (07, Scan List): inlet temperature, inlet RH, outlet temperature, outlet RH for j = 0 to 3. -/
def bayChannel (k : Bay) (j : Fin 4) : ChannelNo := ⟨4 * k.val + j.val, by omega⟩

/-- Channels 16, 17 and 18 (07, Scan List). -/
def boilerChannel : ChannelNo := 16
def reservoirChannel : ChannelNo := 17
def condensateChannel : ChannelNo := 18

/-! ## The working program -/

/-- The step the bay is on, if it holds a program with such a step. -/
def BayContext.currentStep (b : BayContext) : Option StepRecord :=
  match b.program with
  | none => none
  | some p => p.steps[b.stepIndex]?

/-- The kind of the bay's current step. -/
def BayContext.currentKind (b : BayContext) : Option StepKind := b.currentStep.map (·.kind)

/-- The boost flag is the least significant bit of the flags (Wire Layouts). -/
def StepRecord.boost (r : StepRecord) : Bool := r.flags.getLsbD 0

/-- The step count, 0 while no working program is held (R183). -/
def BayContext.stepCount (b : BayContext) : Nat :=
  match b.program with
  | none => 0
  | some p => p.steps.length

/-- The resource a step of this kind requests (R22). -/
def StepKind.resource : StepKind → Option Resource
  | .steam => some .steam
  | .dry => some .dry
  | .settle => none
  | .refresh => none
  | .cool => none

/-- A change of bay state, ACTIVE to ACTIVE included. Leaving ACTIVE makes the overheat run 0 (R44); the model's marks of a
timer run to its end belong to the state and step that is left. So a door opening, a SKIP_STEP or an ABORT that is taken between the
tick on which step remaining or wait elapsed reaches its end and the row of that end goes before it, and the end is not taken any
more: DESIGN CHOICE, R31 and R40 leave it open (log 30). -/
def BayContext.goto (next : BayState) (b : BayContext) : BayContext :=
  { b with
    state := next
    overheatRun := if next = .active then b.overheatRun else 0
    limitReached := false
    waitReached := false }

/-! ## Notices (R180) -/

/-- The bay kinds. -/
inductive BayNotice where
  | step
  | grant
  | finish
  | halt
  | door
deriving DecidableEq, Repr

/-- The plant kinds. -/
inductive PlantNotice where
  | waterLow
  | tankFull
  | shed
  | trip
  | library
deriving DecidableEq, Repr

/-- The bay set of one bay: bay k in bit k. -/
def baySet (k : Bay) : BitVec 4 := BitVec.twoPow 4 k.val

/-- A raise of a bay kind joins the set or adds the bay to its bay set (R180). -/
def NoticeSet.addBay (n : BayNotice) (k : Bay) (ns : NoticeSet) : NoticeSet :=
  match n with
  | .step => { ns with step := ns.step ||| baySet k }
  | .grant => { ns with grant := ns.grant ||| baySet k }
  | .finish => { ns with finish := ns.finish ||| baySet k }
  | .halt => { ns with halt := ns.halt ||| baySet k }
  | .door => { ns with door := ns.door ||| baySet k }

def NoticeSet.addPlant (n : PlantNotice) (ns : NoticeSet) : NoticeSet :=
  match n with
  | .waterLow => { ns with waterLow := true }
  | .tankFull => { ns with tankFull := true }
  | .shed => { ns with shed := true }
  | .trip => { ns with trip := true }
  | .library => { ns with library := true }

/-- A bay kind raised for bay k reaches bay port k and the service port (R180). -/
def State.raiseBay (n : BayNotice) (k : Bay) (s : State) : State :=
  (s.mapPort (.bay k) fun p => { p with notices := p.notices.addBay n k }).mapPort .service
    fun p => { p with notices := p.notices.addBay n k }

/-- A plant kind reaches the service port and, but for LIBRARY, every bay port (R180). -/
def State.raisePlant (n : PlantNotice) (s : State) : State :=
  let add (p : PortRec) : PortRec := { p with notices := p.notices.addPlant n }
  { s with ports :=
      { bay := if n = .library then s.ports.bay else s.ports.bay.map add
        service := add s.ports.service } }

/-! ## Replies (R173) -/

/-- A command completes on a port: its reply replaces the previous one and the port is REPLY_READY. -/
def PortRec.answer (status : Status) (data : List Byte) (p : PortRec) : PortRec :=
  { p with phase := .replyReady, rx := [], overrun := false, reply := some { status := status, data := data } }

/-- A reply with data; only OK carries any (10, Status Codes). -/
def State.replyWith (p : Port) (data : List Byte) (s : State) : State := s.mapPort p (PortRec.answer .ok data)

/-- A reply with length 0. -/
def State.reply (p : Port) (status : Status) (s : State) : State := s.mapPort p (PortRec.answer status [])

/-- The service port becomes PENDING: its reply reads PENDING with length 0 (R174). -/
def PortRec.becomePending (p : PortRec) : PortRec :=
  { p with phase := .pending, rx := [], overrun := false, reply := some { status := .pending, data := [] } }

/-! ## Demands on the air handling (R25) -/

/-- The fan level a bay's condition demands (R25). -/
def BayContext.fanDemand (b : BayContext) : Nat :=
  match b.state with
  | .await | .active =>
    match b.currentStep with
    | some r => if r.kind = .settle then 0 else r.fanLevel
    | none => 0
  | .halted => if b.purgeRemaining.isSome && b.door = .shut then Params.purgeFanLevel else 0
  | .idle | .loaded | .held | .finished => 0

/-- The vent demand, `true` for open (R25). -/
def BayContext.ventDemand (b : BayContext) : Bool :=
  match b.state with
  | .active => b.currentKind = some .refresh || b.currentKind = some .cool
  | .halted => b.purgeRemaining.isSome
  | .idle | .loaded | .await | .held | .finished => false

/-- The record of a fan commanded on from off (R126). -/
def Tacho.commandedOn : Tacho := { Tacho.cleared with spinUp := some Params.spinUpTicks }

/-- A fan demand reaches the drying circuit. Commanded off or on from off, the record is set anew; a change between two
levels above 0, or none, leaves it (R126). -/
def AirBay.setFan (level : Nat) (a : AirBay) : AirBay :=
  { a with
    fanLevel := level
    tacho :=
      if level = 0 then (if a.fanLevel = 0 then a.tacho else Tacho.cleared)
      else if a.fanLevel = 0 then Tacho.commandedOn else a.tacho }

/-- The bay hands its demands on; fan and flap follow at once (R25, R123, R124). -/
def State.handDemands (k : Bay) (s : State) : State :=
  s.mapAir k fun a => { (a.setFan (s.bay k).fanDemand) with vent := (s.bay k).ventDemand }

end Sys2Proof.Machine
end

