-- ==== Sys2Proof/Machine/Programs.lean ====
section
/-!
DEFINITION. The wire layout of program records and settings, their tests, and normalization (01; 10, Wire Layouts).
Multi-byte fields are sent most significant byte first.
-/

namespace Sys2Proof.Machine

/-! ## Byte order -/

/-- A two-byte unsigned field, most significant byte first. -/
def nat16 (hi lo : Byte) : Nat := hi.toNat * 256 + lo.toNat

/-- A two-byte two's complement field. -/
def int16 (hi lo : Byte) : Int := (hi ++ lo : BitVec 16).toInt

def byteOf (n : Nat) : Byte := BitVec.ofNat 8 n

/-- The two bytes of a number of 0 to 65535. -/
def be16 (n : Nat) : List Byte := [byteOf (n / 256), byteOf n]

/-- The two bytes of a signed number, two's complement. -/
def be16Int (i : Int) : List Byte := be16 (BitVec.ofInt 16 i).toNat

/-- The four bytes of a signed number, two's complement. -/
def be32Int (i : Int) : List Byte :=
  let n := (BitVec.ofInt 32 i).toNat
  be16 (n / 65536) ++ be16 n

def boolByte (b : Bool) : Byte := if b then 1 else 0

/-! ## The program record (R1) -/

/-- The codes of the step kinds (Wire Layouts). -/
def StepKind.code : StepKind → Byte
  | .steam => 1
  | .settle => 2
  | .dry => 3
  | .refresh => 4
  | .cool => 5

def StepKind.ofCode (b : Byte) : Option StepKind :=
  if b = 1 then some .steam
  else if b = 2 then some .settle
  else if b = 3 then some .dry
  else if b = 4 then some .refresh
  else if b = 5 then some .cool
  else none

/-- The target field of a step: signed in a COOL step, unsigned otherwise (R4). -/
def targetOf (kind : StepKind) (hi lo : Byte) : Int :=
  if kind = .cool then int16 hi lo else (nat16 hi lo : Int)

/-- The steps of a record in step order, each of eight bytes; `none` where the bytes do not make that many steps or a kind is
not one of the five (R1). -/
def parseSteps : Nat → List Byte → Option (List StepRecord)
  | 0, [] => some []
  | n + 1, kind :: fan :: flags :: d1 :: d0 :: t1 :: t0 :: air :: rest =>
    match StepKind.ofCode kind, parseSteps n rest with
    | some k, some more =>
      some ({ kind := k, fanLevel := fan.toNat, flags := flags, duration := nat16 d1 d0,
              target := targetOf k t1 t0, airTemp := air.toNat } :: more)
    | _, _ => none
  | _, _ => none

/-- The structural tests of R1 on the bytes offered as the record: four header bytes, a step count of 1 to 12, a length of
4 + 8 × step count, and every kind one of the five. `none` is a refusal with BAD_VALUE. -/
def parseProgram (bytes : List Byte) : Option Program :=
  match bytes with
  | limit :: r1 :: r0 :: count :: body =>
    if 1 ≤ count.toNat ∧ count.toNat ≤ 12 ∧ bytes.length = 4 + 8 * count.toNat then
      match parseSteps count.toNat body with
      | some steps => some { fabricLimit := limit.toNat, rateFloor := nat16 r1 r0, steps := steps }
      | none => none
    else none
  | _ => none

/-- A step record on the wire. -/
def StepRecord.bytes (r : StepRecord) : List Byte :=
  [r.kind.code, byteOf r.fanLevel, r.flags] ++ be16 r.duration ++ be16Int r.target ++ [byteOf r.airTemp]

/-- A program record on the wire, 4 + 8 × step count bytes (R13). -/
def Program.bytes (p : Program) : List Byte :=
  [byteOf p.fabricLimit] ++ be16 p.rateFloor ++ [byteOf p.steps.length] ++ p.steps.flatMap StepRecord.bytes

/-! ## Normalization (R2, R3, R4) -/

/-- The flags a step keeps: the boost flag in a DRY step, else none (R3). -/
def keptFlags (kind : StepKind) (flags : Byte) : Byte := if kind = .dry then flags &&& 1 else 0

/-- The fan level (R3). -/
def normalFan (kind : StepKind) (level : Nat) : Nat := if kind = .settle then 0 else clampNat 1 15 level

/-- The target (R4). -/
def normalTarget (kind : StepKind) (target : Int) : Int :=
  match kind with
  | .steam => clampInt 300 1000 target
  | .settle => 0
  | .dry => clampInt 0 8000 target
  | .refresh => 0
  | .cool => clampInt 150 600 target

/-- The air temperature, bounded in a DRY step by the fabric limit as already clamped (R4). -/
def normalAir (kind : StepKind) (fabricLimit airTemp : Nat) : Nat :=
  if kind = .dry then clampNat 30 fabricLimit airTemp else 0

/-- Normalization of one step (R3, R4). -/
def StepRecord.normalize (fabricLimit : Nat) (r : StepRecord) : StepRecord where
  kind := r.kind
  fanLevel := normalFan r.kind r.fanLevel
  flags := keptFlags r.kind r.flags
  duration := clampNat 10 7200 r.duration
  target := normalTarget r.kind r.target
  airTemp := normalAir r.kind fabricLimit r.airTemp

/-- Normalization of a record: the header first, then each step with the fabric limit as clamped (R2). -/
def Program.normalize (p : Program) : Program where
  fabricLimit := clampNat 30 75 p.fabricLimit
  rateFloor := p.rateFloor
  steps := p.steps.map (StepRecord.normalize (clampNat 30 75 p.fabricLimit))

/-! ## The settings record (R178, R168) -/

/-- The two-byte field at an offset of a settings record. -/
def fieldAt (bytes : List Byte) (offset : Nat) : Nat := nat16 (bytes.getD offset 0) (bytes.getD (offset + 1) 0)

/-- The fields of the record at their offsets (Wire Layouts). -/
def readSettings (bytes : List Byte) : Settings where
  baseReserve := fieldAt bytes 0
  steamDraw := fieldAt bytes 2
  compressorDraw := fieldAt bytes 4
  reheaterDraw := fieldAt bytes 6
  dwell := (bytes.getD 8 0).toNat
  warmHold := fieldAt bytes 9
  minOff := fieldAt bytes 11
  minRun := fieldAt bytes 13
  waitTimeout := fieldAt bytes 15
  starvationAge := fieldAt bytes 17
  duct := ⟨fieldAt bytes 19, fieldAt bytes 21, fieldAt bytes 23, fieldAt bytes 25⟩
  reservoirLow := fieldAt bytes 27
  reservoirResume := fieldAt bytes 29
  condensateFull := fieldAt bytes 31
  condensateResume := fieldAt bytes 33
  drainFitted := bytes.getD 35 0 = 1
  drainOn := fieldAt bytes 36
  drainOff := fieldAt bytes 38

/-- A settings record on the wire, 40 bytes. -/
def Settings.bytes (st : Settings) : List Byte :=
  be16 st.baseReserve ++ be16 st.steamDraw ++ be16 st.compressorDraw ++ be16 st.reheaterDraw ++ [byteOf st.dwell] ++
  be16 st.warmHold ++ be16 st.minOff ++ be16 st.minRun ++ be16 st.waitTimeout ++ be16 st.starvationAge ++
  be16 st.duct.b0 ++ be16 st.duct.b1 ++ be16 st.duct.b2 ++ be16 st.duct.b3 ++
  be16 st.reservoirLow ++ be16 st.reservoirResume ++ be16 st.condensateFull ++ be16 st.condensateResume ++
  [boolByte st.drainFitted] ++ be16 st.drainOn ++ be16 st.drainOff

/-- Every field in its range (R178). -/
def Settings.inRange (st : Settings) : Bool :=
  st.baseReserve ≤ 1000 && 500 ≤ st.steamDraw && st.steamDraw ≤ 3000 &&
  200 ≤ st.compressorDraw && st.compressorDraw ≤ 1500 && st.reheaterDraw ≤ 1000 &&
  st.dwell ≤ 60 && st.warmHold ≤ 600 && st.minOff ≤ 600 && st.minRun ≤ 600 &&
  60 ≤ st.waitTimeout && st.waitTimeout ≤ 7200 && 30 ≤ st.starvationAge && st.starvationAge ≤ 3600 &&
  1 ≤ st.duct.b0 && st.duct.b0 ≤ 2000 && 1 ≤ st.duct.b1 && st.duct.b1 ≤ 2000 &&
  1 ≤ st.duct.b2 && st.duct.b2 ≤ 2000 && 1 ≤ st.duct.b3 && st.duct.b3 ≤ 2000 &&
  st.reservoirLow ≤ 1000 && st.reservoirResume ≤ 1000 && st.condensateFull ≤ 1000 && st.condensateResume ≤ 1000 &&
  st.drainOn ≤ 1000 && st.drainOff ≤ 1000

/-- The orders of the marks (R168). -/
def Settings.marksOrdered (st : Settings) : Bool :=
  st.reservoirLow < st.reservoirResume && st.condensateResume < st.condensateFull &&
  st.drainOff < st.drainOn && st.drainOn < st.condensateFull

/-- A settings record as SET_PLANT tests it: every range, the drain fitted field 0 or 1, the orders of the marks. `none` is a
refusal with BAD_VALUE (R178). -/
def parseSettings (bytes : List Byte) : Option Settings :=
  if (readSettings bytes).inRange && (readSettings bytes).marksOrdered &&
      (bytes.getD 35 0 = 0 || bytes.getD 35 0 = 1) then
    some (readSettings bytes)
  else none

end Sys2Proof.Machine
end

