-- ==== Sys2Proof/Machine/Operands.lean ====
section
/-!
DEFINITION. Every operand form: the command frame, its codes and lengths, the permissions, and the checks of R172.
-/

namespace Sys2Proof.Machine

/-- The commands of the command table (10, R176). -/
inductive Command where
  | loadRecipe
  | loadProgram
  | start
  | abort
  | skipStep
  | clear
  | readBay
  | readPlant
  | readRecipe
  | readNotices
  | setNoticeMask
  | setPlant
  | commission
  | setBudget
  | setArbitration
  | promote
  | mask
  | unmask
  | clearTrip
  | writeRecipe
  | eraseRecipe
  | eraseLibrary
  | setTrim
  | readChannels
  | resetPart
deriving DecidableEq, Repr

namespace Command

/-- The command codes. -/
def code : Command → Byte
  | .loadRecipe => 0x10
  | .loadProgram => 0x11
  | .start => 0x12
  | .abort => 0x13
  | .skipStep => 0x14
  | .clear => 0x15
  | .readBay => 0x16
  | .readPlant => 0x20
  | .readRecipe => 0x21
  | .readNotices => 0x22
  | .setNoticeMask => 0x23
  | .setPlant => 0x30
  | .commission => 0x31
  | .setBudget => 0x32
  | .setArbitration => 0x33
  | .promote => 0x34
  | .mask => 0x35
  | .unmask => 0x36
  | .clearTrip => 0x37
  | .writeRecipe => 0x40
  | .eraseRecipe => 0x41
  | .eraseLibrary => 0x42
  | .setTrim => 0x50
  | .readChannels => 0x51
  | .resetPart => 0x5F

/-- Every command, in the table's order. -/
def all : List Command :=
  [.loadRecipe, .loadProgram, .start, .abort, .skipStep, .clear, .readBay, .readPlant, .readRecipe, .readNotices,
   .setNoticeMask, .setPlant, .commission, .setBudget, .setArbitration, .promote, .mask, .unmask, .clearTrip,
   .writeRecipe, .eraseRecipe, .eraseLibrary, .setTrim, .readChannels, .resetPart]

/-- The command a code names, if the table has it. -/
def ofCode (b : Byte) : Option Command := all.find? fun c => c.code = b

/-- The four groups of R176. -/
inductive Group where
  | bay
  | port
  | openRead
  | service
deriving DecidableEq, Repr

def group : Command → Group
  | .loadRecipe | .loadProgram | .start | .abort | .skipStep | .clear | .readBay => .bay
  | .readNotices | .setNoticeMask => .port
  | .readPlant | .readRecipe => .openRead
  | .setPlant | .commission | .setBudget | .setArbitration | .promote | .mask | .unmask | .clearTrip
  | .writeRecipe | .eraseRecipe | .eraseLibrary | .setTrim | .readChannels | .resetPart => .service

/-- A service command is refused on a bay port, and nothing else is (R176). -/
def permitted (c : Command) : Port → Bool
  | .service => true
  | .bay _ => c.group ≠ .service

/-- The length rule of a command on a bay port, and of a service command on SP. -/
inductive Length where
  | exactly (n : Nat)
  | atLeast (n : Nat)
deriving DecidableEq, Repr

def Length.suits : Length → Nat → Bool
  | .exactly n, l => l = n
  | .atLeast n, l => n ≤ l

/-- The parameter lengths of the command table, the service port's bay operand apart. -/
def operandLength : Command → Length
  | .loadRecipe => .exactly 3
  | .loadProgram => .atLeast 2
  | .start | .abort | .skipStep | .clear | .readBay => .exactly 0
  | .readPlant => .exactly 0
  | .readRecipe => .exactly 1
  | .readNotices => .exactly 0
  | .setNoticeMask => .exactly 2
  | .setPlant => .exactly 40
  | .commission => .exactly 0
  | .setBudget => .exactly 2
  | .setArbitration => .exactly 1
  | .promote | .mask | .unmask => .exactly 1
  | .clearTrip => .exactly 0
  | .writeRecipe => .atLeast 1
  | .eraseRecipe => .exactly 1
  | .eraseLibrary => .exactly 0
  | .setTrim => .exactly 2
  | .readChannels => .exactly 0
  | .resetPart => .exactly 0

/-- How many bytes of bay operand the command carries on a port: one for a bay command on the service port (R176). -/
def bayBytes (c : Command) : Port → Nat
  | .service => if c.group = .bay then 1 else 0
  | .bay _ => 0

/-- Check 4 of R172: L suits the command on this port. -/
def lengthSuits (c : Command) (p : Port) (l : Nat) : Bool :=
  decide (c.bayBytes p ≤ l) && c.operandLength.suits (l - c.bayBytes p)

end Command

/-- A command frame: code, L, parameters (Wire Layouts). -/
def frame (c : Command) (params : List Byte) : List Byte := c.code :: byteOf params.length :: params

/-- A write START to the port's address in IDLE or REPLY_READY (R171): RECEIVING with an empty receive buffer; RECEIVING keeps the
state before the write. A PENDING port takes none (R174). -/
def PortRec.startWrite (p : PortRec) : PortRec :=
  match p.phase with
  | .idle => { p with phase := .receiving false, rx := [], overrun := false }
  | .replyReady => { p with phase := .receiving true, rx := [], overrun := false }
  | .receiving _ | .pending => p

/-- A write that carried no data byte: the port returns to the state before the write (R171). -/
def PortRec.endEmpty (p : PortRec) : PortRec :=
  match p.phase with
  | .receiving wasReady => { p with phase := if wasReady then .replyReady else .idle, rx := [], overrun := false }
  | .idle | .replyReady | .pending => p

/-- The port has a write in progress, whose data bytes it takes. After a reset it has none until the next START, whatever write the
reset has cut (R171, R175). -/
def PortRec.takesBytes (p : PortRec) : Bool :=
  match p.phase with
  | .receiving _ => true
  | .idle | .replyReady | .pending => false

/-- The next data byte on the bus is acknowledged: a write is in progress and fewer than 112 bytes are stored (R171, R175). -/
def PortRec.acknowledgesByte (p : PortRec) : Bool := p.takesBytes && decide (p.rx.length < Params.rxBytes)

/-- One data byte on the bus: stored where it is acknowledged; else not stored, and the frame of a write in progress is marked
overrun (R171). A port with no write in progress takes no byte (R170, R175). -/
def PortRec.storeByte (p : PortRec) (b : Byte) : PortRec :=
  if p.acknowledgesByte then { p with rx := p.rx ++ [b] }
  else if p.takesBytes then { p with overrun := true }
  else p

/-- A write to the port: its START, and its data bytes one after another from an empty receive buffer (R171). -/
def PortRec.receive (written : List Byte) (p : PortRec) : PortRec :=
  written.foldl PortRec.storeByte { p.startWrite with rx := [], overrun := false }

/-- The checks the port makes of a taken frame, in the order of R172, and the status of the first that fails; `none` where
the frame passes and the command goes to the owning block. -/
def refuseFrame (p : Port) (rx : List Byte) (overrun : Bool) : Option Status :=
  match rx with
  | code :: len :: params =>
    if overrun || decide (Params.maxL < len.toNat) || decide (params.length ≠ len.toNat) then some .badLength
    else
      match Command.ofCode code with
      | none => some .unknownCommand
      | some c =>
        if !c.permitted p then some .notPermitted
        else if !c.lengthSuits p len.toNat then some .badLength
        else if c.bayBytes p = 1 ∧ 3 < (params.getD 0 0).toNat then some .badValue
        else if c = .loadProgram ∧ (parseProgram (params.drop (c.bayBytes p + 2))).isNone then some .badValue
        else none
  | _ => some .badLength

/-- A write of the given bytes to a port, ended and taken: its START takes the port to RECEIVING, the bytes go into the receive
buffer, and the port's checks read them there. A PENDING port does not acknowledge the address, so nothing happens (R174); a frame
that fails a check is answered with its status and nothing else changes (R172); a frame that passes leaves the buffer for the block
that owns its command, `act`, which answers it. -/
def State.takeFrame (p : Port) (written : List Byte) (act : State → State) (s : State) : State :=
  if (s.port p).phase = .pending then s
  else
    let received := s.mapPort p (PortRec.receive written)
    match refuseFrame p (received.port p).rx (received.port p).overrun with
    | some status => received.reply p status
    | none => act s

/-- A command written on a port with its parameters. -/
def State.command (p : Port) (c : Command) (params : List Byte) (act : State → State) (s : State) : State :=
  s.takeFrame p (frame c params) act

/-- The two bytes of a 16-bit operand, most significant first. -/
def wordBytes (w : Word16) : List Byte := be16 w.toNat

/-- A byte operand that names a bay (R57, R58). -/
def bayOfByte (b : Byte) : Option Bay := if h : b.toNat < 4 then some ⟨b.toNat, h⟩ else none

/-- A byte operand that names a library slot (R7, R13). -/
def slotOfByte (b : Byte) : Option (Fin 16) := if h : b.toNat < 16 then some ⟨b.toNat, h⟩ else none

/-- A byte operand that names a channel (R139). -/
def channelOfByte (b : Byte) : Option ChannelNo := if h : b.toNat < 19 then some ⟨b.toNat, h⟩ else none

/-- A byte operand that names an arbitration mode: ROTATING 0, FIXED 1 (R56). -/
def modeOfByte (b : Byte) : Option ArbMode := if b = 0 then some .rotating else if b = 1 then some .fixed else none

end Sys2Proof.Machine
end

