-- ==== Sys2Proof/Machine/Flags.lean ====
section
/-!
DEFINITION. Every flag computation: the notice mask and attention line, the channel fault states, the water latches, the
blocking of an entry, and the debounce of an input.
-/

namespace Sys2Proof.Machine

/-! ## Notice bits, mask and attention line (R181, R182; Wire Layouts) -/

/-- Which kinds are present, each at its bit: STEP 0, GRANT 1, FINISH 2, HALT 3, DOOR 4, WATER_LOW 5, TANK_FULL 6, SHED 7,
TRIP 8, LIBRARY 9. -/
def NoticeSet.kinds (ns : NoticeSet) : BitVec 10 :=
  let b (c : Bool) : BitVec 1 := BitVec.ofBool c
  b ns.library ++ b ns.trip ++ b ns.shed ++ b ns.tankFull ++ b ns.waterLow ++ b (ns.door != 0) ++ b (ns.halt != 0) ++
    b (ns.finish != 0) ++ b (ns.grant != 0) ++ b (ns.step != 0)

/-- The attention line is pulled low while a kind of the set is enabled in the mask (R181). -/
def PortRec.attentionLow (p : PortRec) : Bool := p.notices.kinds &&& p.mask != 0

/-- The part of a set whose kinds are in `sel` (R182). -/
def NoticeSet.select (sel : BitVec 10) (ns : NoticeSet) : NoticeSet where
  step := if sel.getLsbD 0 then ns.step else 0
  grant := if sel.getLsbD 1 then ns.grant else 0
  finish := if sel.getLsbD 2 then ns.finish else 0
  halt := if sel.getLsbD 3 then ns.halt else 0
  door := if sel.getLsbD 4 then ns.door else 0
  waterLow := sel.getLsbD 5 && ns.waterLow
  tankFull := sel.getLsbD 6 && ns.tankFull
  shed := sel.getLsbD 7 && ns.shed
  trip := sel.getLsbD 8 && ns.trip
  library := sel.getLsbD 9 && ns.library

/-! ## Channel faults (R135) -/

/-- A rail is a code of 8 or below, or of 4087 or above, before any trim. -/
def isRail (c : Code) : Bool := c.toNat ≤ Params.railLow || Params.railHigh ≤ c.toNat

/-- The fault state and run count after a scan: rails are counted while CLEAR, in-range codes while FAULTED, and the third in
a row changes the state; a code of the other kind breaks the run. -/
def faultUpdate (faulted : Bool) (run : Nat) (rail : Bool) : Bool × Nat :=
  if rail = faulted then (faulted, 0)
  else if Params.faultScans ≤ run + 1 then (!faulted, 0) else (faulted, run + 1)

/-! ## Water latches (R160, R162) -/

/-- The reservoir low latch, judged from channel 17. -/
def reservoirLatch (st : Settings) (latch faulted : Bool) (level : Int) : Bool :=
  if faulted then true
  else if latch then level < st.reservoirResume
  else level < st.reservoirLow

/-- The condensate full latch, judged from channel 18; the drain fault latch forces it. -/
def condensateLatch (st : Settings) (latch drainFault faulted : Bool) (level : Int) : Bool :=
  if drainFault || faulted then true
  else if latch then decide ((st.condensateResume : Int) ≤ level)
  else decide ((st.condensateFull : Int) ≤ level)

/-! ## Blocking (R54) -/

/-- An entry is blocking while its bypass count is 3, or once its age has reached the starvation age. -/
def Entry.blocking (e : Entry) : Bool := Params.bypassLimit ≤ e.bypass || e.ageMark ≠ .young

/-- The age after one more tick, and the mark when it has reached the starvation age in force on that tick (R53, R54, R50). -/
def Entry.tick (st : Settings) (e : Entry) : Entry :=
  { e with
    age := e.age + 1
    ageMark :=
      if e.ageMark = .young ∧ st.starvationAge * Params.ticksPerSecond ≤ e.age + 1 then .reached else e.ageMark }

/-- A raise of the bypass count stops at 3 (R53, R64). -/
def Entry.raise (e : Entry) : Entry := { e with bypass := min Params.bypassLimit (e.bypass + 1) }

/-! ## Debounce (R18, R103) -/

/-- A tick sees a level at an input whose taken level is `taken`: a level that differs lengthens the run, up to the five
ticks of a debounced event, and one that agrees ends it. -/
def Debounce.sample (taken level : Bool) (d : Debounce) : Debounce :=
  { level := level, run := if level = taken then 0 else min Params.debounceTicks (d.run + 1) }

/-- The run is complete: a debounced event is due. -/
def Debounce.complete (d : Debounce) : Bool := Params.debounceTicks ≤ d.run

end Sys2Proof.Machine
end

