-- ==== Sys2Proof/Machine/Drying.lean ====
section
/-!
DEFINITION. The drying circuit (06): compressor, dampers, reheaters, fans and tachometers. Its holders are the arbiter's DRY
slots, so how many there are is handed in.
-/

namespace Sys2Proof.Machine

namespace DryingCircuit

/-- The compressor enters RUNNING from OFF or START_WAIT: min-run is started (R112, R113). -/
def startRunning (st : Settings) (speed : Nat) (d : DryingCircuit) : DryingCircuit :=
  { d with comp := .running, speed := speed, minRun := some (st.minRun * Params.ticksPerSecond) }

/-- A stop of the compressor, from RUNNING or TAIL to OFF: min-off is started (R113). Min-run becomes absent (R115, R116;
log 13). -/
def stop (st : Settings) (d : DryingCircuit) : DryingCircuit :=
  { d with comp := .off, speed := 0, minRun := none, minOff := st.minOff * Params.ticksPerSecond }

/-- A passage from START_WAIT to OFF is no stop: min-off runs on (R113). That the compressor never comes to RUNNING where the passage
is taken after the TICK that has brought min-off to 0 and before the MIN_OFF_EXPIRY row is a DESIGN CHOICE (log 31). -/
def leaveStartWait (d : DryingCircuit) : DryingCircuit := { d with comp := .off, speed := 0, minRun := none }

/-- What a DRY grant does to the compressor, by the state it finds (R112, R117). -/
def onGrant (st : Settings) (d : DryingCircuit) : DryingCircuit :=
  match d.comp with
  | .off => if d.minOff = 0 then startRunning st 60 d else { d with comp := .startWait, minRun := none }
  | .startWait => d
  | .running => { d with speed := 100 }
  | .tail => { d with comp := .running, speed := 60 }

/-- Min-run has elapsed, or none is owed (R114). -/
def minRunElapsed (d : DryingCircuit) : Bool :=
  match d.minRun with
  | none => true
  | some n => n = 0

/-- What the end of a DRY holder does to the compressor, `remaining` holders being left (R114). -/
def onRelease (st : Settings) (remaining : Nat) (d : DryingCircuit) : DryingCircuit :=
  match d.comp with
  | .running =>
    if remaining = 0 then
      if d.minRunElapsed then stop st d else { d with comp := .tail, speed := 60 }
    else { d with speed := 60 }
  | .startWait => if remaining = 0 then leaveStartWait d else d
  | .off | .tail => d

/-- A forced stop (R116). -/
def forcedStop (st : Settings) (d : DryingCircuit) : DryingCircuit :=
  match d.comp with
  | .running | .tail => stop st d
  | .startWait => leaveStartWait d
  | .off => d

/-- What a revocation does to the compressor: the last holder's is a forced stop (R114, R116). -/
def onRevoke (st : Settings) (remaining : Nat) (d : DryingCircuit) : DryingCircuit :=
  if remaining = 0 then forcedStop st d else onRelease st remaining d

/-- Min-off has elapsed under a compressor in START_WAIT (R113). -/
def minOffDue (d : DryingCircuit) : Bool := d.comp = .startWait && d.minOff = 0

/-- The compressor is RUNNING once this tick has counted its min-off: it is so already, or it waits in START_WAIT and min-off
elapses (R113, R118). -/
def runsThisTick (d : DryingCircuit) : Bool := d.comp = .running || (d.comp = .startWait && decide (d.minOff ≤ 1))

/-- START_WAIT to RUNNING, at 60 % with one holder or 100 % with two (R113, R117). -/
def minOffExpiry (st : Settings) (holders : Nat) (d : DryingCircuit) : DryingCircuit :=
  startRunning st (if holders = 2 then 100 else 60) d

/-- Min-run has elapsed under a compressor in TAIL (R115). -/
def minRunDue (d : DryingCircuit) : Bool := d.comp = .tail && d.minRun = some 0

end DryingCircuit

/-! ## Dampers (R119, R120) -/

namespace AirBay

/-- The damper is commanded open: from CLOSED or CLOSING a full travel. -/
def openDamper (a : AirBay) : AirBay :=
  match a.damper with
  | .closed | .closing => { a with damper := .opening, travel := Params.damperTicks }
  | .opening | .opened => a

/-- The damper is commanded closed: from OPEN or OPENING a full travel. -/
def closeDamper (a : AirBay) : AirBay :=
  match a.damper with
  | .opened | .opening => { a with damper := .closing, travel := Params.damperTicks }
  | .closing | .closed => a

/-- The damper moves. -/
def moving (a : AirBay) : Bool := a.damper = .opening || a.damper = .closing

/-- Damper travel has reached 0 (R120). -/
def travelDue (a : AirBay) : Bool := a.moving && a.travel = 0

/-- The damper is OPEN once this tick has counted its travel: it is so already, or it is OPENING and reaches its end stop (R118,
R120). -/
def opensThisTick (a : AirBay) : Bool := a.damper = .opened || (a.damper = .opening && decide (a.travel ≤ 1))

/-- The end of a travel: OPEN or CLOSED, lines released (R120). -/
def travelEnd (a : AirBay) : AirBay :=
  match a.damper with
  | .opening => { a with damper := .opened }
  | .closing => { a with damper := .closed }
  | .opened | .closed => a

/-! ## Tachometer and stall (R125 to R127) -/

/-- The fan is commanded on (R124). -/
def fanOn (a : AirBay) : Bool := a.fanLevel ≠ 0

/-- Spin-up has elapsed (R127). -/
def spunUp (a : AirBay) : Bool := a.tacho.spinUp = some 0

/-- A fan is stalled when it is commanded on, its spin-up has elapsed and its silence is 50 (R127). -/
def stallCondition (a : AirBay) : Bool := a.fanOn && a.spunUp && decide (Params.silenceTicks ≤ a.tacho.silence)

/-- Silence has reached 50 and what that makes invalid still stands, or a stall is to be found (R126, R127). -/
def silenceDue (a : AirBay) : Bool :=
  a.fanOn && decide (Params.silenceTicks ≤ a.tacho.silence) &&
    (a.tacho.period.isSome || a.tacho.reference.isSome || (a.spunUp && !a.tacho.stalled))

/-- Silence of 50 makes P invalid and drops the reference; the fan may be stalled (R126, R127). -/
def silenceTimeout (a : AirBay) : AirBay :=
  if a.silenceDue then
    { a with tacho := { a.tacho with
      reference := none
      period := none
      stalled := a.tacho.stalled || a.stallCondition } }
  else a

/-- Spin-up has elapsed with silence at 50, and the stall is still to be found (R127). -/
def spinUpDue (a : AirBay) : Bool := a.stallCondition && !a.tacho.stalled

/-- The fan becomes STALLED (R127). -/
def becomeStalled (a : AirBay) : AirBay :=
  if a.spinUpDue then { a with tacho := { a.tacho with stalled := true } } else a

/-- The FAN_STALL report that the tick has brought is handed over (R128). -/
def takeReport (a : AirBay) : AirBay := { a with reportDue := false }

/-- An accepted edge sets silence to 0 and returns the stall state to CLEAR; taken before the report of a stall, it leaves none to
make (R126 to R128). -/
def acceptEdge (capture : Word16) (period : Option Nat) (a : AirBay) : AirBay :=
  { a with
    reportDue := false
    tacho := { a.tacho with
      reference := some capture
      period := period
      silence := 0
      stalled := false } }

/-- A tachometer edge (R125): discarded with the fan off; the reference where there is none; else a period modulo 65536,
ignored as noise below 200. -/
def edge (capture : Word16) (a : AirBay) : AirBay :=
  if a.fanOn then
    match a.tacho.reference with
    | none => a.acceptEdge capture none
    | some ref =>
      if (capture - ref).toNat < Params.minPeriod then a
      else a.acceptEdge capture (some (capture - ref).toNat)
  else a

/-- The counts of the air handling's tick: travel, silence, spin-up (R120, R126, R127). -/
def count (a : AirBay) : AirBay :=
  { a with
    travel := if a.moving then a.travel - 1 else a.travel
    tacho :=
      if a.fanOn then
        { a.tacho with
          silence := min Params.silenceTicks (a.tacho.silence + 1)
          spinUp := a.tacho.spinUp.map (· - 1) }
      else a.tacho }

/-- The air handling's tick. A fan that it finds stalled for the first time has its report due (R127, R128; log 28). -/
def tick (a : AirBay) : AirBay := { a.count with reportDue := a.count.spinUpDue }

end AirBay

/-- The drying circuit's tick: min-off in every state, min-run in RUNNING and TAIL, and every bay's air handling (R113,
R115). -/
def DryingCircuit.tick (d : DryingCircuit) : DryingCircuit :=
  { d with
    minOff := d.minOff - 1
    minRun := if d.comp = .running ∨ d.comp = .tail then d.minRun.map (· - 1) else d.minRun
    air := d.air.map AirBay.tick }

/-! ## Reheater (R121, R122) -/

/-- Where the two conditions begin to hold: ON if the inlet was not faulted and below target − 5 (R121). -/
def reheatStart (faulted : Bool) (inlet target : Int) : Bool := !faulted && decide (inlet < target - Params.reheatBand)

/-- Regulation at a scan complete (R122). -/
def reheatRegulate (on faulted : Bool) (inlet target : Int) : Bool :=
  if faulted then false
  else if inlet < target - Params.reheatBand then true
  else if target + Params.reheatBand ≤ inlet then false
  else on

end Sys2Proof.Machine
end

