-- ==== Sys2Proof/Machine/Steam.lean ====
section
/-!
DEFINITION. The steam unit (05): what a grant, the end of a grant, a trip, a scan, a tick and the probes do to it. The
holder is handed in, since it is the arbiter's STEAM row.
-/

namespace Sys2Proof.Machine.SteamUnit

/-- Switching the heater. The dry-fire time becomes 0 when the heater goes OFF (R107). That it does so, and no trip comes, where a
release or revocation is taken after the TICK that has brought it to 500 and before the DRY_FIRE row is a DESIGN CHOICE, since R107
orders only the low probe going WET with that tick (log 31). -/
def switchHeater (on : Bool) (u : SteamUnit) : SteamUnit :=
  { u with heater := on, dryFire := if on then u.dryFire else 0 }

/-- A dwell starts when a delivery ends; with a setting of 0 none does (R101). -/
def startDwell (setting : Nat) (h : Bay) (u : SteamUnit) : SteamUnit :=
  if setting = 0 then u
  else { u with dwellBay := some h, dwellRemaining := setting * Params.ticksPerSecond }

/-- Whether a dwell holds back the valve of bay `h`: one runs, for another bay, and has not elapsed (R94). -/
def dwellHolds (h : Bay) (u : SteamUnit) : Bool :=
  match u.dwellBay with
  | none => false
  | some b => b ≠ h && u.dwellRemaining ≠ 0

/-- A READY generator not held back by a dwell goes to DELIVERING and opens the holder's valve; a dwell of the holder's own
bay is cleared (R94). -/
def tryDeliver (h : Bay) (u : SteamUnit) : SteamUnit :=
  if u.gen = .ready ∧ u.dwellHolds h = false then
    { u with
      gen := .delivering
      valves := u.valves.set h true
      dwellBay := if u.dwellBay = some h then none else u.dwellBay
      dwellRemaining := if u.dwellBay = some h then 0 else u.dwellRemaining }
  else u

/-- A STEAM grant for bay `h` with the boiler temperature of the latest scan (R92, R94, R96). It finds the generator OFF or
WARM_HOLD (R59). -/
def startGrant (boiler : Int) (h : Bay) (u : SteamUnit) : SteamUnit :=
  match u.gen with
  | .off | .warmHold =>
    tryDeliver h (switchHeater (boiler < Params.heaterOnBelow)
      { u with
        warmHold := none
        gen := if Params.boilerReady ≤ boiler then .ready else .heating })
  | .heating | .ready | .delivering | .tripped => u

/-- WARM_HOLD starts, or OFF follows at once with a setting of 0 (R100). The heater goes OFF (R96). -/
def toWarmHold (setting : Nat) (u : SteamUnit) : SteamUnit :=
  switchHeater false
    { u with
      gen := if setting = 0 then .off else .warmHold
      warmHold := if setting = 0 then none else some (setting * Params.ticksPerSecond) }

/-- The end of the STEAM grant of bay `h`, by release or revocation (R100). -/
def endGrant (st : Settings) (h : Bay) (u : SteamUnit) : SteamUnit :=
  match u.gen with
  | .heating | .ready => toWarmHold st.warmHold u
  | .delivering => toWarmHold st.warmHold (startDwell st.dwell h { u with valves := u.valves.set h false })
  | .off | .warmHold | .tripped => u

/-- A trip's own effects in the steam unit, for the holder there is (R108, items 1 to 4). -/
def trip (st : Settings) (cause : TripCause) (holder : Option Bay) (u : SteamUnit) : SteamUnit :=
  let v : SteamUnit :=
    match u.gen, holder with
    | .delivering, some h => startDwell st.dwell h u
    | _, _ => u
  switchHeater false
    { v with
      gen := .tripped
      tripCause := cause
      fill := none
      warmHold := none
      valves := PerBay.fill false }

/-- The trip that a scan calls for, if any: first a faulted boiler channel, then a boiler above 140.0 °C; none while
TRIPPED (R106). -/
def scanTrip (faulted : Bool) (boiler : Int) (u : SteamUnit) : Option TripCause :=
  if u.gen = .tripped then none
  else if faulted then some .sensor
  else if Params.boilerTripAbove < boiler then some .overtemp
  else none

/-- Heater regulation at a scan complete in the three regulating states (R96). -/
def regulate (boiler : Int) (u : SteamUnit) : SteamUnit :=
  match u.gen with
  | .heating | .ready | .delivering =>
    if boiler < Params.heaterOnBelow then switchHeater true u
    else if Params.heaterOffFrom ≤ boiler then switchHeater false u
    else u
  | .off | .warmHold | .tripped => u

/-- Valve modulation at a scan complete in DELIVERING, from the holder's outlet RH and the target of its step; a faulted
channel closes the valve and keeps it closed (R98, R99). -/
def modulate (h : Bay) (faulted : Bool) (rh target : Int) (u : SteamUnit) : SteamUnit :=
  if faulted then { u with valves := u.valves.set h false }
  else if u.valves.get h then
    if target ≤ rh then { u with valves := u.valves.set h false } else u
  else if rh < target - Params.valveMargin then { u with valves := u.valves.set h true } else u

/-- The state advance at a scan complete: HEATING to READY at or above 105.0 °C, with R94 in the same event; READY back to
HEATING below (R93). -/
def advance (h : Bay) (boiler : Int) (u : SteamUnit) : SteamUnit :=
  match u.gen with
  | .heating => if Params.boilerReady ≤ boiler then tryDeliver h { u with gen := .ready } else u
  | .ready => if boiler < Params.boilerReady then { u with gen := .heating } else u
  | .off | .delivering | .warmHold | .tripped => u

/-- The steam unit's tick: the dwell, the warm hold, the fill and the dry-fire time (R101, R102, R104, R107). What happens
when one reaches its end is the row of its expiry. -/
def tick (u : SteamUnit) : SteamUnit :=
  { u with
    dwellRemaining := u.dwellRemaining - 1
    warmHold := if u.gen = .warmHold then u.warmHold.map (· - 1) else u.warmHold
    fill := u.fill.map fun n => min Params.fillTicks (n + 1)
    dryFire := if u.heater ∧ u.lowProbe = .dry then min Params.dryFireTicks (u.dryFire + 1) else 0 }

/-- The fill starts: FILLING with fill elapsed 0 and the pump on, unless it runs already or the generator is TRIPPED
(R104). -/
def startFill (u : SteamUnit) : SteamUnit :=
  if u.fill = none ∧ u.gen ≠ .tripped then { u with fill := some 0 } else u

/-- The fill timeout has been reached (R105). -/
def fillDue (u : SteamUnit) : Bool :=
  match u.fill with
  | some n => decide (Params.fillTicks ≤ n) && u.gen ≠ .tripped
  | none => false

/-- The dry-fire time has been reached, and the same tick has not met the fill timeout (R105, R107). -/
def dryFireDue (u : SteamUnit) : Bool :=
  decide (Params.dryFireTicks ≤ u.dryFire) && u.gen ≠ .tripped && !u.fillDue

/-- The dwell has elapsed (R101). -/
def dwellDue (u : SteamUnit) : Bool := u.dwellBay.isSome && u.dwellRemaining = 0

/-- The generator is DELIVERING once this tick has counted its dwell: it is so already, or it is READY and the dwell that holds it
back elapses (R94, R101). -/
def deliversThisTick (u : SteamUnit) : Bool :=
  u.gen = .delivering || (u.gen = .ready && u.dwellBay.isSome && decide (u.dwellRemaining ≤ 1))

/-- The warm hold has expired (R102). -/
def warmHoldDue (u : SteamUnit) : Bool := u.gen = .warmHold && u.warmHold = some 0

/-- The low probe going DRY (R103, R104). -/
def lowGoesDry (u : SteamUnit) : SteamUnit :=
  if u.lowProbe = .dry then u else startFill { u with lowProbe := .dry }

/-- The low probe going WET: the dry-fire time becomes 0 (R103, R107). -/
def lowGoesWet (u : SteamUnit) : SteamUnit :=
  if u.lowProbe = .wet then u else { u with lowProbe := .wet, dryFire := 0 }

/-- The high probe going WET ends a fill (R103, R104). -/
def highGoesWet (u : SteamUnit) : SteamUnit :=
  if u.highProbe = .wet then u else { u with highProbe := .wet, fill := none }

/-- The high probe going DRY sets the probe state (R103). -/
def highGoesDry (u : SteamUnit) : SteamUnit :=
  if u.highProbe = .dry then u else { u with highProbe := .dry }

/-- CLEAR_TRIP can clear the generator: TRIPPED, below 100.0 °C, channel not faulted (R109). -/
def clearable (faulted : Bool) (boiler : Int) (u : SteamUnit) : Bool :=
  u.gen = .tripped && decide (boiler < Params.clearTripBelow) && !faulted

/-- CLEAR_TRIP takes the generator to OFF, keeps the trip cause, and starts the fill if the low probe reads DRY (R109, R104). -/
def clearTrip (u : SteamUnit) : SteamUnit :=
  if u.lowProbe = .dry then startFill { u with gen := .off } else { u with gen := .off }

end Sys2Proof.Machine.SteamUnit
end

