-- ==== Sys2Proof/Machine/Arbiter.lean ====
section
/-!
DEFINITION. The plant arbiter (03, 04): the grant table and committed draw, posts, withdrawals, releases and revocations, the
evaluation, and the hand-offs to the steam unit, the drying circuit and the bay that belong to the same event.
-/

namespace Sys2Proof.Machine

/-! ## Views of the grant table (R51) -/

namespace Arbiter

/-- The bay holds the slot. -/
def slotHeldBy (k : Bay) : Option DrySlot → Bool
  | some d => d.bay = k
  | none => false

def holdsDry (k : Bay) (a : Arbiter) : Bool := slotHeldBy k a.slotA || slotHeldBy k a.slotB

def holdsSteam (k : Bay) (a : Arbiter) : Bool := a.steamRow = some k

/-- The reheat status of the DRY slot a bay holds, if it holds one. -/
def reheatOf (k : Bay) (a : Arbiter) : Option Reheat :=
  if slotHeldBy k a.slotA then a.slotA.map (·.reheat)
  else if slotHeldBy k a.slotB then a.slotB.map (·.reheat)
  else none

/-- The bay's part of the grant table: its grant held (02, Bay Context). -/
def grantHeld (k : Bay) (a : Arbiter) : GrantHeld :=
  if a.holdsSteam k then .steam
  else
    match a.reheatOf k with
    | some .notAsked => .dry
    | some .on => .dryReheat
    | some .pending => .dryPending
    | none => .none

/-- How many DRY slots are held. -/
def dryHolders (a : Arbiter) : Nat := (if a.slotA.isSome then 1 else 0) + (if a.slotB.isSome then 1 else 0)

/-- A held slot's reheat status is ON. -/
def slotOn : Option DrySlot → Bool
  | some d => d.reheat = .on
  | none => false

/-- The slot with bay k's reheat status replaced. -/
def slotWith (k : Bay) (r : Reheat) (slot : Option DrySlot) : Option DrySlot :=
  if slotHeldBy k slot then some { bay := k, reheat := r } else slot

/-- The slot cleared of bay k (R67). -/
def slotWithout (k : Bay) (slot : Option DrySlot) : Option DrySlot := if slotHeldBy k slot then none else slot

def setReheat (k : Bay) (r : Reheat) (a : Arbiter) : Arbiter :=
  { a with slotA := slotWith k r a.slotA, slotB := slotWith k r a.slotB }

def clearDry (k : Bay) (a : Arbiter) : Arbiter :=
  { a with slotA := slotWithout k a.slotA, slotB := slotWithout k a.slotB }

/-- A DRY grant goes to slot A if A is free and to slot B otherwise (R51). -/
def placeDry (k : Bay) (r : Reheat) (a : Arbiter) : Arbiter :=
  if a.slotA.isNone then { a with slotA := some { bay := k, reheat := r } }
  else { a with slotB := some { bay := k, reheat := r } }

/-! ## Committed draw (R73 to R76) -/

/-- The compressor term is counted: a DRY slot is held, or the compressor is RUNNING or TAIL (R75). -/
def compressorCounted (comp : CompState) (a : Arbiter) : Bool :=
  a.slotA.isSome || a.slotB.isSome || comp = .running || comp = .tail

/-- The sum of the terms of R73. -/
def draw (comp : CompState) (a : Arbiter) : Nat :=
  a.settings.baseReserve +
  (if a.steamRow.isSome then a.settings.steamDraw else 0) +
  (if a.compressorCounted comp then a.settings.compressorDraw else 0) +
  (if slotOn a.slotA then a.settings.reheaterDraw else 0) +
  (if slotOn a.slotB then a.settings.reheaterDraw else 0)

/-! ## Ring and request list -/

/-- In ROTATING mode a granted bay goes to the end of the ring (R55). -/
def rotate (k : Bay) (a : Arbiter) : Arbiter :=
  match a.mode with
  | .rotating => { a with ring := a.ring.filter (· ≠ k) ++ [k] }
  | .fixed => a

/-- PROMOTE moves a bay to the head of the ring (R57). -/
def promote (k : Bay) (a : Arbiter) : Arbiter := { a with ring := k :: a.ring.filter (· ≠ k) }

/-- The event has brought a change of R62. -/
def owe (a : Arbiter) : Arbiter := { a with evalOwed := true }

/-- The evaluation that was owed is being made. -/
def evaluating (a : Arbiter) : Arbiter := { a with evalOwed := false }

/-- A post makes a new entry, with bypass count 0 and its age counted from now (R52). -/
def post (k : Bay) (r : Resource) (boost : Bool) (a : Arbiter) : Arbiter :=
  let e : Entry := { resource := r, boost := boost, age := 0, bypass := 0, ageMark := .young }
  owe { a with requests := a.requests.set k (some e) }

/-- An entry leaves the list. -/
def dropEntry (k : Bay) (a : Arbiter) : Arbiter := { a with requests := a.requests.set k none }

/-- A withdrawal; with no entry there it finds nothing to take (R52). -/
def withdraw (k : Bay) (a : Arbiter) : Arbiter :=
  if (a.requests.get k).isSome then owe (dropEntry k a) else a

/-- Raise the bypass counts of the entries passed over (R64). -/
def raisePassed (passed : List Bay) (a : Arbiter) : Arbiter :=
  passed.foldl (fun a k => { a with requests := a.requests.modify k (Option.map Entry.raise) }) a

end Arbiter

namespace State

/-- The committed draw is brought up to date (R73). -/
def refreshDraw (s : State) : State := s.mapArb fun a => { a with committed := a.draw s.dry.comp }

/-! ## Reheater and reheat status (R121, R29) -/

/-- Both conditions of R121: the bay's slot is held with reheat status ON, and its damper is OPEN. -/
def reheatReady (s : State) (k : Bay) : Bool :=
  s.arb.reheatOf k = some .on && (s.air k).damper = .opened

/-- The regulation target of bay k: the air temperature of its current step × 10 (R121). -/
def reheatTarget (s : State) (k : Bay) : Int :=
  match (s.bay k).currentStep with
  | some r => 10 * (r.airTemp : Int)
  | none => 0

/-- The reheater follows its conditions: OFF when they do not hold; when they begin to hold, as the latest scan says; else
as it stands. `was` is whether they held before the change (R121). -/
def reheaterFollow (k : Bay) (was : Bool) (s : State) : State :=
  if s.reheatReady k then
    if was then s
    else
      let c := s.chan (bayChannel k 0)
      s.mapAir k fun a => { a with reheater := reheatStart c.faulted c.value (s.reheatTarget k) }
  else s.mapAir k fun a => { a with reheater := false }

/-- A reheat status changes: in the table, at the reheater and in the committed draw. The bay's grant held follows, being a
view (R29, R81, R87, R88). -/
def setReheat (k : Bay) (r : Reheat) (s : State) : State :=
  ((s.mapArb (Arbiter.setReheat k r)).reheaterFollow k (s.reheatReady k)).refreshDraw

/-! ## The end of a grant (R67, R68, R100, R114) -/

/-- The STEAM row is cleared and the steam unit takes the end of the grant. -/
def endSteam (k : Bay) (s : State) : State :=
  ((s.mapArb fun a => { a with steamRow := none }).mapSteam (SteamUnit.endGrant s.arb.settings k)).refreshDraw

/-- A bay's DRY slot is cleared with its reheat status; its damper is commanded closed and its reheater goes OFF. -/
def clearDrySlot (k : Bay) (s : State) : State :=
  (s.mapArb (Arbiter.clearDry k)).mapAir k fun a => { a.closeDamper with reheater := false }

/-- The release of a DRY slot: the compressor acts on the holders that remain (R114). -/
def endDry (k : Bay) (s : State) : State :=
  let c := s.clearDrySlot k
  (c.mapDry (DryingCircuit.onRelease c.arb.settings c.arb.dryHolders)).refreshDraw

/-- The revocation of a DRY slot: the last holder's is a forced stop (R116). -/
def cutDry (k : Bay) (s : State) : State :=
  let c := s.clearDrySlot k
  (c.mapDry (DryingCircuit.onRevoke c.arb.settings c.arb.dryHolders)).refreshDraw

/-- A forced stop ordered by the arbiter (R82, R71). -/
def forceStop (s : State) : State := (s.mapDry (DryingCircuit.forcedStop s.arb.settings)).refreshDraw

/-- The bay releases whatever it holds; holding nothing, nothing happens and no evaluation follows (R67). -/
def release (k : Bay) (s : State) : State :=
  if s.arb.holdsSteam k then (s.endSteam k).mapArb Arbiter.owe
  else if s.arb.holdsDry k then (s.endDry k).mapArb Arbiter.owe
  else s

/-- The bay posts the request of its current step (R22, R28). -/
def postRequest (k : Bay) (s : State) : State :=
  match (s.bay k).currentStep with
  | some r =>
    match r.kind.resource with
    | some .steam => s.mapArb (Arbiter.post k .steam false)
    | some .dry => s.mapArb (Arbiter.post k .dry r.boost)
    | none => s
  | none => s

def withdraw (k : Bay) (s : State) : State := s.mapArb (Arbiter.withdraw k)

/-- A revocation reaches the bay: AWAIT with wait elapsed 0, its request posted again (R28), and GRANT is raised (R68). -/
def revokeBay (k : Bay) (s : State) : State :=
  ((((s.mapBay k fun b => { (b.goto .await) with waitElapsed := 0 }).handDemands k).postRequest k).mapArb
    Arbiter.owe).raiseBay .grant k

/-- Revocation of the STEAM grant (R68). -/
def revokeSteam (k : Bay) (s : State) : State := (s.endSteam k).revokeBay k

/-- Revocation of a DRY grant (R68). -/
def revokeDry (k : Bay) (s : State) : State := (s.cutDry k).revokeBay k

/-! ## A grant (R66, R27, R86) -/

/-- A grant reaches the bay: ACTIVE, wait elapsed and overheat run 0, step remaining kept; GRANT is raised (R27, R66). -/
def grantBay (k : Bay) (s : State) : State :=
  ((s.mapBay k fun b => { (b.goto .active) with waitElapsed := 0, overheatRun := 0 }).handDemands k).raiseBay .grant k

/-- A STEAM grant. The steam unit reads the boiler temperature of the latest scan (R92). -/
def grantSteam (k : Bay) (s : State) : State :=
  (((s.mapArb fun a => ({ a.dropEntry k with steamRow := some k }).rotate k).mapSteam
    (SteamUnit.startGrant (s.chan boilerChannel).value k)).refreshDraw).grantBay k

/-- The entry becomes the holder of a DRY slot, and the drying circuit serves it; a boosted entry's reheat waits (R66, R112,
R119). -/
def serveDry (k : Bay) (boost : Bool) (s : State) : State :=
  let placed := s.mapArb fun a => ((a.dropEntry k).placeDry k (if boost then .pending else .notAsked)).rotate k
  ((placed.mapDry (DryingCircuit.onGrant placed.arb.settings)).mapAir k AirBay.openDamper).refreshDraw

/-- One reheater's draw fits beside the committed draw (R86, R87). -/
def reheatFits (s : State) : Bool := s.arb.committed + s.arb.settings.reheaterDraw ≤ s.arb.budget

/-- The reheat of a boosted grant is ON where it fits (R86). -/
def decideReheat (k : Bay) (boost : Bool) (s : State) : State :=
  if boost && s.reheatFits then s.setReheat k .on else s

/-- A DRY grant. The reheat status is decided after the compressor term has been counted for it: NOT_ASKED without boost, ON
where the reheater's draw fits, else PENDING (R86). -/
def grantDry (k : Bay) (boost : Bool) (s : State) : State :=
  ((s.serveDry k boost).decideReheat k boost).grantBay k

/-- An entry is granted. -/
def grant (k : Bay) (e : Entry) (s : State) : State :=
  match e.resource with
  | .steam => s.grantSteam k
  | .dry => s.grantDry k e.boost

/-! ## Eligibility and fit (R59 to R61) -/

/-- The plant and the arbiter can serve the entry, apart from power (R59, R60). -/
def eligible (s : State) (k : Bay) (e : Entry) : Bool :=
  s.arb.commissioning = .commissioned && !(s.arb.masks.get k) &&
  match e.resource with
  | .steam => s.arb.steamRow.isNone && s.steam.gen ≠ .tripped && !s.water.reservoirLow
  | .dry => (s.arb.slotA.isNone || s.arb.slotB.isNone) && !s.water.condensateFull

/-- What the entry's grant adds to the committed draw, reheat apart (R61). -/
def addedDraw (s : State) (e : Entry) : Nat :=
  match e.resource with
  | .steam => s.arb.settings.steamDraw
  | .dry => if s.arb.compressorCounted s.dry.comp then 0 else s.arb.settings.compressorDraw

/-- The fit test (R61). -/
def fits (s : State) (e : Entry) : Bool := s.arb.committed + s.addedDraw e ≤ s.arb.budget

/-- The fit test with every reheat status ON taken as PENDING (R88). -/
def fitsUnheated (s : State) (e : Entry) : Bool :=
  s.arb.committed -
    ((if Arbiter.slotOn s.arb.slotA then s.arb.settings.reheaterDraw else 0) +
     (if Arbiter.slotOn s.arb.slotB then s.arb.settings.reheaterDraw else 0)) + s.addedDraw e ≤ s.arb.budget

/-! ## Evaluation (R62 to R65, R87, R88) -/

/-- What a pass comes to: a grant, a stall, or the end of the ring, with the bays passed over. -/
inductive Pass where
  | grants (k : Bay) (e : Entry) (passed : List Bay)
  | stalls (k : Bay) (e : Entry) (passed : List Bay)
  | ends
deriving DecidableEq, Repr

/-- One pass over the rest of the ring (R63). -/
def pass (s : State) : List Bay → List Bay → Pass
  | [], _ => .ends
  | k :: rest, passed =>
    match s.arb.requests.get k with
    | none => s.pass rest passed
    | some e =>
      if s.eligible k e then
        if s.fits e then .grants k e passed
        else if e.blocking then .stalls k e passed
        else s.pass rest (passed ++ [k])
      else s.pass rest passed

/-- Set the reheat of the ON slots to PENDING in the order given, for as long as `more` asks for it (R81, R88). -/
def shedReheat (more : State → Bool) : List Bay → State → State
  | [], s => s
  | k :: rest, s =>
    if more s && s.arb.reheatOf k = some .on then shedReheat more rest (s.setReheat k .pending)
    else shedReheat more rest s

/-- The reheat upgrade: PENDING slots in ring order, each turned ON while it fits (R87). -/
def upgradeReheat : List Bay → State → State
  | [], s => s
  | k :: rest, s =>
    if s.arb.reheatOf k = some .pending ∧ s.reheatFits then
      upgradeReheat rest (s.setReheat k .on)
    else upgradeReheat rest s

/-- A grant that ends a pass, with the bypass raises of the entries passed over (R64, R66). -/
def grantInPass (k : Bay) (e : Entry) (passed : List Bay) (s : State) : State :=
  (s.mapArb (Arbiter.raisePassed passed)).grant k e

/-- The passes of an evaluation. Each grant takes one entry from the list, so five passes are enough (R63). A stall gives
way to the reheat shed, lowest-ranked holder first (R65, R88); a walk that ends without one, to the upgrade (R87). -/
def walk : Nat → State → State
  | 0, s => s
  | n + 1, s =>
    match s.pass s.arb.ring [] with
    | .grants k e passed => walk n (s.grantInPass k e passed)
    | .ends => upgradeReheat s.arb.ring s
    | .stalls k e passed =>
      if s.fitsUnheated e then
        walk n ((shedReheat (fun t => !t.fits e) s.arb.ring.reverse s).grantInPass k e passed)
      else s

/-- An evaluation (R63). -/
def evaluate (s : State) : State := walk 5 (s.mapArb Arbiter.evaluating)

/-- The evaluation that closes an event, where the event has brought a change of R62. -/
def settle (s : State) : State := if s.arb.evalOwed then s.evaluate else s

/-- A change of R62 together with the evaluation it calls for. -/
def oweAndSettle (s : State) : State := (s.mapArb Arbiter.owe).settle

/-! ## Shedding on a budget fall (R80 to R85) -/

/-- The committed draw exceeds the budget. -/
def overBudget (s : State) : Bool := s.arb.budget < s.arb.committed

/-- Stage 2: the compressor in TAIL, where the term is counted with no DRY slot held (R82). -/
def shedTail (s : State) : State :=
  if s.overBudget ∧ s.arb.slotA.isNone ∧ s.arb.slotB.isNone then s.forceStop else s

/-- Stage 3: the DRY grants, in the order given (R83). -/
def shedDry : List Bay → State → State
  | [], s => s
  | k :: rest, s => if s.overBudget && s.arb.holdsDry k then shedDry rest (s.revokeDry k) else shedDry rest s

/-- Stage 4: the STEAM grant (R84). -/
def shedSteam (s : State) : State :=
  match s.arb.steamRow with
  | some k => if s.overBudget then s.revokeSteam k else s
  | none => s

/-- The four stages, lowest-ranked holder first within a stage (R80). -/
def shedStages (s : State) : State :=
  (shedDry s.arb.ring.reverse (shedReheat overBudget s.arb.ring.reverse s).shedTail).shedSteam

/-- The shed of a budget fall; one that shed at least one thing raises SHED once (R85). -/
def shed (s : State) : State :=
  if s.overBudget then s.shedStages.raisePlant .shed else s

/-! ## Plant reports (R69 to R71) -/

/-- The trip of the generator, its report to the arbiter and the revocation of the STEAM grant, with TRIP raised (R108,
R69). -/
def tripGenerator (cause : TripCause) (s : State) : State :=
  let tripped := s.mapSteam (SteamUnit.trip s.arb.settings cause s.arb.steamRow)
  let revoked :=
    match s.arb.steamRow with
    | some k => tripped.revokeSteam k
    | none => tripped
  (revoked.mapArb Arbiter.owe).raisePlant .trip

/-- Revoke the holder of a slot. -/
def revokeSlot (slot : Option DrySlot) (s : State) : State :=
  match slot with
  | some d => s.revokeDry d.bay
  | none => s

/-- The condensate full latch has set: both DRY slots are revoked, the compressor stops at once, TANK_FULL is raised (R71,
R163). -/
def onTankFull (s : State) : State :=
  ((((s.revokeSlot s.arb.slotA).revokeSlot s.arb.slotB).forceStop).mapArb Arbiter.owe).raisePlant .tankFull

end State

end Sys2Proof.Machine
end

