-- ==== Sys2Proof/Machine/Sequencer.lean ====
section
/-!
DEFINITION. The bay sequencers (02): loading, step entry, advance, finish and halt, the commands during a treatment, door
events, the bay's scan event and its tick.
-/

namespace Sys2Proof.Machine

/-! ## The context alone -/

namespace BayContext

/-- A load (R19): the context of a bay that has taken the program from `src`. -/
def load (p : Program) (src : Source) (b : BayContext) : BayContext :=
  { (b.goto .loaded) with
    program := some p
    source := some src
    stepIndex := 0
    stepRemaining := (p.steps.head?.map (·.duration * Params.ticksPerSecond)).getD 0
    waitElapsed := 0
    outcome := .none
    fault := none
    underdry := false
    purgeRemaining := none }

/-- ABORT's effect on the context (R38). The underdry mark and the fault stand. -/
def abort (b : BayContext) : BayContext :=
  { (b.goto .idle) with
    program := none
    source := none
    stepIndex := 0
    stepRemaining := 0
    waitElapsed := 0
    outcome := .aborted }

/-- CLEAR's effect on the context (R39). Outcome, fault and underdry mark stand. -/
def clear (b : BayContext) : BayContext :=
  { (b.goto .idle) with
    program := none
    source := none
    stepIndex := 0
    stepRemaining := 0
    waitElapsed := 0
    purgeRemaining := none }

/-- The finish (R36). -/
def finish (b : BayContext) : BayContext :=
  { (b.goto .finished) with outcome := if b.underdry then .underdry else .complete }

/-- A halt (R43), with the purge of an OVERHEAT halt started (R45). -/
def halt (fault : BayFault) (b : BayContext) : BayContext :=
  { (b.goto .halted) with
    outcome := .halted
    fault := some fault
    purgeRemaining := if fault = .overheat then some Params.purgeTicks else b.purgeRemaining }

/-- The full duration limit of the current step, in ticks (R21). -/
def fullDuration (b : BayContext) : Nat := (b.currentStep.map (·.duration * Params.ticksPerSecond)).getD 0

/-- The first act of a step entry: step remaining is set on a fresh entry and kept on a re-entry (R21). -/
def setRemaining (fresh : Bool) (b : BayContext) : BayContext :=
  { b with stepRemaining := if fresh then b.fullDuration else b.stepRemaining, limitReached := false }

/-- The overheat threshold: the fabric limit × 10 + 50 (R44). -/
def overheatThreshold (b : BayContext) : Int :=
  match b.program with
  | some p => (p.fabricLimit : Int) * 10 + 50
  | none => 50

/-- The overheat run after a scan of the inlet channel (R44). -/
def overheatUpdate (faulted : Bool) (inlet : Int) (b : BayContext) : BayContext :=
  { b with
    overheatRun :=
      if !faulted && decide (b.overheatThreshold < inlet) then b.overheatRun + 1 else 0 }

/-- The underdry judgement at the end of a DRY step on its limit (R31). -/
def judgeUnderdry (m : Int) (b : BayContext) : BayContext :=
  match b.currentStep with
  | some r => if r.kind = .dry ∧ r.target * 1000 < m then { b with underdry := true } else b
  | none => b

/-- The purge runs: HALTED with a purge and the door closed (R45, R42). -/
def purging (b : BayContext) : Bool := b.state = .halted && b.purgeRemaining.isSome && b.door = .shut

/-- The bay's tick: step time where it counts, wait elapsed, purge (R26, R30, R45). The marks say that a timer has reached its
end on this tick. -/
def tick (waitTimeout : Nat) (counts : Bool) (b : BayContext) : BayContext :=
  match b.state with
  | .active =>
    if counts then
      { b with stepRemaining := b.stepRemaining - 1, limitReached := decide (b.stepRemaining ≤ 1) }
    else b
  | .await =>
    { b with
      waitElapsed := b.waitElapsed + 1
      waitReached := decide (waitTimeout * Params.ticksPerSecond ≤ b.waitElapsed + 1) }
  | .halted => if b.purging then { b with purgeRemaining := b.purgeRemaining.map (· - 1) } else b
  | .idle | .loaded | .held | .finished => b

/-- Step remaining has reached 0 (R31). -/
def limitDue (b : BayContext) : Bool := b.state = .active && b.limitReached

/-- Wait elapsed has reached the wait timeout (R26). -/
def waitDue (b : BayContext) : Bool := b.state = .await && b.waitReached

/-- Purge remaining has reached 0, so that the purge has ended whatever the door does after (R45). -/
def purgeDue (b : BayContext) : Bool := b.state = .halted && b.purgeRemaining = some 0

end BayContext

namespace State

/-! ## Entering a step (R21 to R24) -/

/-- The bay's grant is that of this resource. -/
def holds (s : State) (k : Bay) : Resource → Bool
  | .steam => s.arb.holdsSteam k
  | .dry => s.arb.holdsDry k

/-- The reheat status of a carried-over DRY slot, from the status before and the new step's boost flag (R23). -/
def carriedReheat (boost : Bool) (before : Reheat) : Reheat :=
  if boost then (if before = .on then .on else .pending) else .notAsked

/-- Carry-over: a DRY grant has its reheat status judged again, and a change of it calls for an evaluation (R23, R62). -/
def carryOver (k : Bay) (r : StepRecord) (s : State) : State :=
  match s.arb.reheatOf k with
  | some before =>
    let after := carriedReheat r.boost before
    if after = before then s else (s.setReheat k after).mapArb Arbiter.owe
  | none => s

/-- The bay goes to ACTIVE in its step. -/
def activate (k : Bay) (s : State) : State := s.mapBay k (BayContext.goto .active)

/-- The bay goes to AWAIT with wait elapsed 0 and posts its request (R22). -/
def awaitGrant (k : Bay) (s : State) : State :=
  (s.mapBay k fun b => { (b.goto .await) with waitElapsed := 0 }).postRequest k

/-- A step entered with the door closed: a plant step carries its grant over or releases what the bay holds and asks for its
resource (R22); another releases any grant and is ACTIVE at once (R24). -/
def enterClosed (k : Bay) (r : StepRecord) (s : State) : State :=
  match r.kind.resource with
  | some resource => if s.holds k resource then (s.carryOver k r).activate k else (s.release k).awaitGrant k
  | none => (s.release k).activate k

/-- The entry of the current step (R21). With the door open the bay releases every grant and is HELD. -/
def enterStep (k : Bay) (fresh : Bool) (s : State) : State :=
  let t := s.mapBay k (BayContext.setRemaining fresh)
  let entered :=
    if (t.bay k).door = .opened then (t.release k).mapBay k (BayContext.goto .held)
    else
      match (t.bay k).currentStep with
      | some r => t.enterClosed k r
      | none => t
  entered.handDemands k

/-! ## Advancing, finishing, halting (R35, R36, R43) -/

/-- The finish. -/
def finishBay (k : Bay) (s : State) : State :=
  (((s.release k).mapBay k BayContext.finish).handDemands k).raiseBay .finish k

/-- A step has ended (R35). -/
def advance (k : Bay) (s : State) : State :=
  if (s.bay k).stepIndex + 1 < (s.bay k).stepCount then
    ((s.mapBay k fun b => { b with stepIndex := b.stepIndex + 1 }).enterStep k true).raiseBay .step k
  else s.finishBay k

/-- Withdraw the request and release every grant: what a bay does on leaving AWAIT or ACTIVE for good. -/
def giveUp (k : Bay) (s : State) : State := (s.withdraw k).release k

/-- A halt (R43). -/
def haltBay (k : Bay) (fault : BayFault) (s : State) : State :=
  (((s.giveUp k).mapBay k (BayContext.halt fault)).handDemands k).raiseBay .halt k

/-! ## Commands (R19, R20, R37 to R39) -/

/-- A load that has passed all its tests: context, estimator and demands (R19, R142). -/
def loadBay (k : Bay) (p : Program) (src : Source) (water : Nat) (s : State) : State :=
  ((s.mapBay k (BayContext.load p src)).mapEst k fun e =>
    { e with m := clampInt 0 8000 (water : Int) * 1000, window := [], valid := false }).handDemands k

def startBay (k : Bay) (s : State) : State := s.enterStep k true

def abortBay (k : Bay) (s : State) : State := ((s.giveUp k).mapBay k BayContext.abort).handDemands k

def skipBay (k : Bay) (s : State) : State := (s.withdraw k).advance k

def clearBay (k : Bay) (s : State) : State := (s.mapBay k BayContext.clear).handDemands k

/-! ## Door events (R18, R40 to R42) -/

/-- A debounced door opening. In AWAIT and ACTIVE the bay is held; otherwise only the demands may change, with a purge. -/
def openDoor (k : Bay) (s : State) : State :=
  let t := s.mapBay k fun b => { b with door := .opened }
  let acted :=
    match (t.bay k).state with
    | .await | .active => (t.giveUp k).mapBay k (BayContext.goto .held)
    | .idle | .loaded | .held | .finished | .halted => t
  (acted.handDemands k).raiseBay .door k

/-- A debounced door closing. In HELD the step is entered again. -/
def closeDoor (k : Bay) (s : State) : State :=
  let t := s.mapBay k fun b => { b with door := .shut }
  let acted :=
    match (t.bay k).state with
    | .held => t.enterStep k false
    | .idle | .loaded | .await | .active | .finished | .halted => t.handDemands k
  acted.raiseBay .door k

/-! ## Timed ends (R26, R31, R45) -/

/-- The step ends on its limit, a DRY step being judged for the underdry mark (R31). -/
def endOnLimit (k : Bay) (s : State) : State :=
  (s.mapBay k (BayContext.judgeUnderdry (s.est.get k).m)).advance k

/-- The purge ends, and the bay stays HALTED (R45). -/
def endPurge (k : Bay) (s : State) : State :=
  (s.mapBay k fun b => { b with purgeRemaining := none }).handDemands k

/-! ## Scan complete in the bay (R32 to R34, R44, R46, R153) -/

/-- The dryness test of R33 on the estimator as the scan left it. -/
def drynessMet (rateFloor : Nat) (target : Int) (e : Estimator) : Bool :=
  e.valid && decide (e.m ≤ target * 1000) && decide (e.window.length = Params.windowSize) &&
    decide (e.window.sum ≤ (rateFloor : Int))

/-- The end test of the current step: dryness in a DRY step, the outlet in a COOL step (R33, R34). -/
def endTest (s : State) (k : Bay) : Bool :=
  match (s.bay k).program, (s.bay k).currentStep with
  | some p, some r =>
    match r.kind with
    | .dry => drynessMet p.rateFloor r.target (s.est.get k)
    | .cool => !(s.chan (bayChannel k 2)).faulted && decide ((s.chan (bayChannel k 2)).value ≤ r.target)
    | .steam | .settle | .refresh => false
  | _, _ => false

/-- A faulted inlet channel halts a STEAM or DRY step (R46). -/
def sensorFaultTest (s : State) (k : Bay) : Bool :=
  (s.chan (bayChannel k 0)).faulted &&
    ((s.bay k).currentKind = some .steam || (s.bay k).currentKind = some .dry)

/-- The sequencer's part of a scan complete: the protection tests, then the end test, in ACTIVE only (R32). -/
def scanBay (k : Bay) (s : State) : State :=
  if (s.bay k).state = .active then
    if s.sensorFaultTest k then s.haltBay k .sensorFault
    else
      let inlet := s.chan (bayChannel k 0)
      let t := s.mapBay k (BayContext.overheatUpdate inlet.faulted inlet.value)
      if Params.overheatScans ≤ (t.bay k).overheatRun then t.haltBay k .overheat
      else if t.endTest k then t.advance k
      else t
  else s

/-! ## The tick (R30) -/

/-- The counting condition of the current step on the tick that comes, judged from the state that the plant's own timers of that
tick leave: a bay counts from the tick on which its damper reports OPEN (R30, R118; log 25). -/
def counts (s : State) (k : Bay) : Bool :=
  match (s.bay k).currentKind with
  | some .steam =>
    s.steam.deliversThisTick && s.arb.holdsSteam k && decide (Params.boilerReady ≤ (s.chan boilerChannel).value)
  | some .dry => (s.air k).opensThisTick && s.dry.runsThisTick
  | some .settle | some .refresh | some .cool => true
  | none => false

/-- A FAN_STALL report (R47, R128). -/
def stallReport (k : Bay) (s : State) : State :=
  if (s.bay k).state = .active then s.haltBay k .fanStall else s

end State

end Sys2Proof.Machine
end

