-- ==== Sys2Proof/Machine/Scanner.lean ====
section
/-!
DEFINITION. The sensor scanner (07): conversion of a code, the scan in flight, the scan complete, trims.
-/

namespace Sys2Proof.Machine

/-! ## Conversion (R134) -/

/-- The classes of the scan list. -/
inductive ChannelClass where
  | bayTemperature
  | humidity
  | boilerTemperature
  | level
deriving DecidableEq, Repr

/-- The class of a channel: 4k and 4k + 2 bay temperature, 4k + 1 and 4k + 3 RH, 16 boiler temperature, 17 and 18 level. -/
def classOf (n : ChannelNo) : ChannelClass :=
  if n.val < 16 then (if n.val % 2 = 0 then .bayTemperature else .humidity)
  else if n.val = 16 then .boilerTemperature
  else .level

/-- The trimmed code: the latched trim is added and the sum clamped to 0 to 4095. -/
def trimmedCode (code : Code) (trim : Int) : Int := clampInt 0 4095 ((code.toNat : Int) + trim)

/-- The value of a trimmed code in its class. -/
def scaleCode : ChannelClass → Int → Int
  | .bayTemperature, t => (t * 1000 + 2047) / 4095 - 100
  | .humidity, t => (t * 1000 + 2047) / 4095
  | .boilerTemperature, t => (t * 2000 + 2047) / 4095
  | .level, t => (t * 1000 + 2047) / 4095

/-- The value of a code under a trim in a class. -/
def convertCode (c : ChannelClass) (code : Code) (trim : Int) : Int := scaleCode c (trimmedCode code trim)

/-! ## One channel -/

namespace Channel

/-- The judgement and conversion of one code at the scan complete: the raw code is kept, the fault state and run count follow
R135, and the last value follows R136, a rail leaving it as it stood. The code in flight becomes absent here: DESIGN CHOICE,
R131 and R133 leave open when between two scans it does (log 29). -/
def judge (cls : ChannelClass) (code : Code) (c : Channel) : Channel :=
  { c with
    raw := code
    inFlight := none
    value := if isRail code then c.value else convertCode cls code c.latched
    faulted := (faultUpdate c.faulted c.run (isRail code)).1
    run := (faultUpdate c.faulted c.run (isRail code)).2 }

/-- The channel at the scan complete, from its code of the scan in flight. -/
def complete (cls : ChannelClass) (c : Channel) : Channel :=
  match c.inFlight with
  | some code => c.judge cls code
  | none => c

/-- The channel at a scan start: the trim setting is latched and the code in flight emptied (R131). -/
def latch (c : Channel) : Channel := { c with latched := c.trim, inFlight := none }

end Channel

/-! ## The scanner -/

namespace Scanner

/-- One channel replaced. -/
def setChannel (n : ChannelNo) (f : Channel → Channel) (sc : Scanner) : Scanner :=
  { sc with channels := sc.channels.set n (f sc.channels[n]) }

/-- The phase has come to 200: a scan is to start (R131). -/
def startDue (sc : Scanner) : Bool := Params.scanPeriod ≤ sc.phase

/-- A scan starts (R131). -/
def start (sc : Scanner) : Scanner :=
  { sc with phase := 0, converting := some 0, channels := sc.channels.map Channel.latch }

/-- The scan count goes on from 65535 to 1 (R133). -/
def nextCount (n : Nat) : Nat := if 65535 ≤ n then 1 else n + 1

/-- The scan complete in the scanner itself (R133): every channel judged and converted, the count raised, the state IDLE. -/
def complete (sc : Scanner) : Scanner :=
  { sc with
    converting := none
    count := nextCount sc.count
    channels := Vector.ofFn fun n => (sc.channels[n]).complete (classOf n) }

/-- The end of the conversion of channel `n`, not the last: its code is held and the next channel follows (R132). -/
def endConversion (n : ChannelNo) (code : Code) (sc : Scanner) : Scanner :=
  { (sc.setChannel n fun c => { c with inFlight := some code }) with
    converting := if h : n.val + 1 < 19 then some ⟨n.val + 1, h⟩ else none }

/-- The end of the conversion of channel 18 (R132, R133). -/
def endLast (code : Code) (sc : Scanner) : Scanner :=
  (sc.setChannel condensateChannel fun c => { c with inFlight := some code }).complete

/-- The scan phase rises on each tick, to 200 at the most: there the scan start sets it to 0 (R131). -/
def tick (sc : Scanner) : Scanner := { sc with phase := min Params.scanPeriod (sc.phase + 1) }

/-- SET_TRIM sets the trim setting alone, clamped (R139). -/
def setTrim (n : ChannelNo) (trim : Byte) (sc : Scanner) : Scanner :=
  sc.setChannel n fun c => { c with trim := clampInt (-Params.trimLimit) Params.trimLimit (signedByte trim) }

end Scanner

end Sys2Proof.Machine
end

