-- ==== Sys2Proof/Machine/Estimator.lean ====
section
/-!
DEFINITION. The moisture estimators (08): the arithmetic of one sample, its use and its refusal.
-/

namespace Sys2Proof.Machine

/-! ## The arithmetic (R146 to R149) -/

/-- An entry of the density table. -/
def densityAt (i : Nat) : Nat := Params.densityTable.getD i 0

/-- The temperature above −10.0 °C, after the clamp to −100 to 900. -/
def tableOffset (t : Int) : Nat := (clampInt (-100) 900 t + 100).toNat

/-- The index into the table, limited to 19. -/
def tableIndex (t : Int) : Nat := min 19 (tableOffset t / 50)

/-- The saturation density at a temperature, interpolated between two entries (R146). -/
def density (t : Int) : Nat :=
  densityAt (tableIndex t) +
    ((densityAt (tableIndex t + 1) - densityAt (tableIndex t)) * (tableOffset t - 50 * tableIndex t) + 25) / 50

/-- The absolute humidity at a temperature and an RH (R147). -/
def absHumidity (t rh : Int) : Nat := ((clampInt 0 1000 rh).toNat * density t + 500) / 1000

/-- The air volume of one scan interval (R148). -/
def airVolume (duct period : Nat) : Nat := min Params.maxVolume ((duct * Params.scanMicros + period / 2) / period)

/-- The water extracted in one scan, rounded half away from zero (R149). -/
def extraction (ahIn ahOut volume : Nat) : Int :=
  let delta : Int := (ahOut : Int) - ahIn
  let magnitude : Int := ((delta.natAbs * volume + 500000) / 1000000 : Nat)
  if delta < 0 then -magnitude else magnitude

/-- The extraction of one sample, from the bay's four values, its duct constant and its fan period (R143). -/
def sampleExtraction (inT inRh outT outRh : Int) (duct period : Nat) : Int :=
  extraction (absHumidity inT inRh) (absHumidity outT outRh) (airVolume duct period)

namespace Estimator

/-- A used sample: M, the window and the validity (R150 to R152). -/
def take (w : Int) (e : Estimator) : Estimator where
  m := clampInt 0 Params.maxM (e.m - w)
  window := (if Params.windowSize ≤ e.window.length then e.window.drop 1 else e.window) ++ [w]
  valid := true

/-- A refused sample (R144). -/
def refuse (e : Estimator) : Estimator := { e with window := [], valid := false }

end Estimator

namespace State

/-- The bay is AWAIT, ACTIVE, or HALTED with a purge running (R143). -/
def airCounted (b : BayContext) : Bool :=
  match b.state with
  | .await | .active => true
  | .halted => b.purgeRemaining.isSome
  | .idle | .loaded | .held | .finished => false

/-- None of the bay's four channels is FAULTED (R143). -/
def bayChannelsGood (s : State) (k : Bay) : Bool :=
  !(s.chan (bayChannel k 0)).faulted && !(s.chan (bayChannel k 1)).faulted &&
    !(s.chan (bayChannel k 2)).faulted && !(s.chan (bayChannel k 3)).faulted

/-- The fan period with which the scan's sample is used; `none` where a condition of R143 fails. -/
def samplePeriod (s : State) (k : Bay) : Option Nat :=
  if airCounted (s.bay k) && (s.air k).fanOn && s.bayChannelsGood k then (s.air k).tacho.period else none

/-- The estimator's part of a scan complete: the sample is used or refused (R143, R144). -/
def scanEstimator (k : Bay) (s : State) : State :=
  match s.samplePeriod k with
  | some period =>
    s.mapEst k (Estimator.take
      (sampleExtraction (s.chan (bayChannel k 0)).value (s.chan (bayChannel k 1)).value
        (s.chan (bayChannel k 2)).value (s.chan (bayChannel k 3)).value (s.arb.settings.duct.get k) period))
  | none => s.mapEst k Estimator.refuse

end State

end Sys2Proof.Machine
end

