-- ==== Sys2Proof/Machine/Water.lean ====
section
/-!
DEFINITION. The water inventory (09): levels, drain pump, progress check and the reports of its latches.
-/

namespace Sys2Proof.Machine

namespace WaterInventory

/-- The pump is OFF, its start level and run elapsed absent. -/
def pumpOff (w : WaterInventory) : WaterInventory := { w with pump := .off, drainStart := none, drainRun := none }

/-- The pump starts a run, or a new window of one, from the given level (R164, R165). -/
def runFrom (level : Int) (w : WaterInventory) : WaterInventory :=
  { w with pump := .running, drainStart := some level, drainRun := some 0 }

/-- The drain pump at a scan complete (R164). -/
def judgePump (st : Settings) (faulted : Bool) (level : Int) (w : WaterInventory) : WaterInventory :=
  if st.drainFitted && !faulted then
    match w.pump with
    | .off => if (st.drainOn : Int) ≤ level then w.runFrom level else w
    | .running => if level ≤ st.drainOff then w.pumpOff else w
    | .fault => w
  else w

/-- The water inventory's own part of a scan complete: both levels, both latches, the pump (R159, R160, R162, R164). -/
def scan (st : Settings) (reservoir condensate : Channel) (w : WaterInventory) : WaterInventory :=
  judgePump st condensate.faulted condensate.value
    { w with
      reservoirLevel := reservoir.value
      condensateLevel := condensate.value
      reservoirLow := reservoirLatch st w.reservoirLow reservoir.faulted reservoir.value
      condensateFull := condensateLatch st w.condensateFull w.drainFault condensate.faulted condensate.value }

/-- The run elapsed rises while the pump is RUNNING (R165). -/
def tick (w : WaterInventory) : WaterInventory :=
  { w with
    drainRun := if w.pump = .running then w.drainRun.map fun n => min Params.drainTicks (n + 1) else w.drainRun }

/-- The run elapsed has reached 120 s under a running pump: a progress check is due (R165). -/
def checkDue (w : WaterInventory) : Bool := w.pump = .running && w.drainRun = some Params.drainTicks

/-- The check passes: the level is at least 50 below the start level (R165). -/
def checkPasses (w : WaterInventory) : Bool :=
  match w.drainStart with
  | some start => w.condensateLevel ≤ start - Params.drainFall
  | none => false

/-- A drain fault in the inventory: the latch sets, the pump stops in FAULT, the full latch is forced (R166). -/
def drainFails (w : WaterInventory) : WaterInventory :=
  { w with pump := .fault, drainStart := none, drainRun := none, drainFault := true, condensateFull := true }

/-- CLEAR_TRIP finds a fault to clear (R167). -/
def clearable (w : WaterInventory) : Bool := w.pump = .fault

/-- CLEAR_TRIP clears the drain fault latch (R167). -/
def clearFault (w : WaterInventory) : WaterInventory := { w.pumpOff with drainFault := false }

/-- An accepted settings record: with no drain fitted a RUNNING pump goes to OFF (R168). That it does so, and no progress check is
made, where the record is taken after the TICK that has brought run elapsed to 12,000 and before the DRAIN_PROGRESS_CHECK row is a
DESIGN CHOICE, since neither R165 nor R168 orders the two (log 32). -/
def onSettings (st : Settings) (w : WaterInventory) : WaterInventory :=
  if w.pump = .running && !st.drainFitted then w.pumpOff else w

end WaterInventory

namespace State

/-- The reservoir latch's report and notice, where it changed (R159, R161, R70). -/
def reportReservoir (before : Bool) (s : State) : State :=
  if s.water.reservoirLow = before then s
  else if s.water.reservoirLow then (s.mapArb Arbiter.owe).raisePlant .waterLow
  else s.mapArb Arbiter.owe

/-- The condensate latch's report and what it calls for, where it changed (R159, R163, R71). -/
def reportCondensate (before : Bool) (s : State) : State :=
  if s.water.condensateFull = before then s
  else if s.water.condensateFull then s.onTankFull
  else s.mapArb Arbiter.owe

/-- The water inventory takes a scan complete as its own event, closed by one evaluation (R159). -/
def scanWater (s : State) : State :=
  let scanned :=
    s.mapWater (WaterInventory.scan s.arb.settings (s.chan reservoirChannel) (s.chan condensateChannel))
  ((scanned.reportReservoir s.water.reservoirLow).reportCondensate s.water.condensateFull).settle

/-- The progress check on its tick (R165, R166). -/
def drainCheck (s : State) : State :=
  if s.water.checkPasses then s.mapWater (WaterInventory.runFrom s.water.condensateLevel)
  else
    (((s.mapWater WaterInventory.drainFails).reportCondensate s.water.condensateFull).raisePlant .trip).settle

end State

end Sys2Proof.Machine
end

