-- ==== Sys2Proof/Machine/Scan.lean ====
section
/-!
DEFINITION. The scan complete in the part (R137): the consumers take the sample set, each as its own event, the steam unit,
the drying circuit and the water inventory first and then bay by bay the estimator and its sequencer (log 5).
-/

namespace Sys2Proof.Machine

/-- The steam unit's scan without a trip (R93, R96, R98, R99): a valve is judged only where the generator was DELIVERING before
this scan (R98). -/
def SteamUnit.scan (h : Bay) (boiler : Int) (faulted : Bool) (rh target : Int) (u : SteamUnit) : SteamUnit :=
  let modulated := if u.gen = .delivering then u.modulate h faulted rh target else u
  (modulated.advance h boiler).regulate boiler

namespace State

/-- The target of a bay's current step, which the steam unit reads for its holder (R98). -/
def stepTarget (s : State) (k : Bay) : Int :=
  match (s.bay k).currentStep with
  | some r => r.target
  | none => 0

/-- The steam unit takes the scan: the trip tests first, and nothing more on a scan that trips (R106). -/
def scanSteam (s : State) : State :=
  let boiler := s.chan boilerChannel
  match s.steam.scanTrip boiler.faulted boiler.value with
  | some cause => (s.tripGenerator cause).settle
  | none =>
    match s.arb.steamRow with
    | some h =>
      let outlet := s.chan (bayChannel h 3)
      s.mapSteam (SteamUnit.scan h boiler.value outlet.faulted outlet.value (s.stepTarget h))
    | none => s

/-- The drying circuit's regulation of one bay's reheater (R122). -/
def scanReheat (k : Bay) (s : State) : State :=
  if s.reheatReady k then
    let inlet := s.chan (bayChannel k 0)
    s.mapAir k fun a =>
      { a with reheater := reheatRegulate a.reheater inlet.faulted inlet.value (s.reheatTarget k) }
  else s

/-- The drying circuit takes the scan. -/
def scanDrying (s : State) : State := (((s.scanReheat 0).scanReheat 1).scanReheat 2).scanReheat 3

/-- The estimator of a bay takes the scan and hands it on to the bay's sequencer (R137). -/
def scanOneBay (k : Bay) (s : State) : State := ((s.scanEstimator k).scanBay k).settle

/-- Every consumer takes the sample set. -/
def deliverScan (s : State) : State :=
  ((((s.scanSteam.scanDrying.scanWater).scanOneBay 0).scanOneBay 1).scanOneBay 2).scanOneBay 3

end State

end Sys2Proof.Machine
end

