-- ==== Sys2Proof/Machine/Library.lean ====
section
/-!
DEFINITION. The recipe library (01, R5 to R16): BUSY, the slot tests, the three operations, their phases and completion.
-/

namespace Sys2Proof.Machine

namespace Library

/-- The slots an operation in progress touches (R5, R6). -/
def busy (s : Fin 16) (l : Library) : Bool :=
  match l.op with
  | .idle => false
  | .writing t _ _ => t = s
  | .erasing t => t = s
  | .erasingAll _ => true

/-- The slot tests of R13 and R14, in order: number, BUSY, EMPTY. -/
def lookup (slot : Byte) (l : Library) : Except Status Program :=
  match slotOfByte slot with
  | none => .error .badValue
  | some n =>
    if l.busy n then .error .slotBusy
    else
      match l.slots[n] with
      | none => .error .slotEmpty
      | some p => .ok p

/-- A slot's content is gone (R8, R10, R11). -/
def emptySlot (n : Fin 16) (l : Library) : Library := { l with slots := l.slots.set n none }

/-- WRITE_RECIPE begins with the erasing of the slot (R8). -/
def startWrite (n : Fin 16) (record : Program) (l : Library) : Library :=
  { (l.emptySlot n) with op := .writing n .erasing record }

/-- ERASE_RECIPE begins (R10). -/
def startErase (n : Fin 16) (l : Library) : Library := { (l.emptySlot n) with op := .erasing n }

/-- ERASE_LIBRARY begins the erasing of slot `n` (R11). -/
def eraseFrom (n : Fin 16) (l : Library) : Library := { (l.emptySlot n) with op := .erasingAll n }

/-- The operation stands in its last phase, whose end is its completion (R6). -/
def inLastPhase (l : Library) : Bool :=
  match l.op with
  | .idle => false
  | .writing _ ph _ => ph = .marking
  | .erasing _ => true
  | .erasingAll n => n.val = 15

/-- The slots as the completion leaves them, and the operation state IDLE (R12). -/
def complete (l : Library) : Library :=
  match l.op with
  | .writing n _ record => { slots := l.slots.set n (some record), op := .idle }
  | .idle | .erasing _ | .erasingAll _ => { l with op := .idle }

/-- The end of a phase that is not the last (R6). -/
def nextPhase (l : Library) : Library :=
  match l.op with
  | .writing n .erasing record => { l with op := .writing n .programming record }
  | .writing n .programming record => { l with op := .writing n .marking record }
  | .erasingAll n => if h : n.val + 1 < 16 then l.eraseFrom ⟨n.val + 1, h⟩ else l
  | .idle | .writing _ .marking _ | .erasing _ => l

end Library

namespace State

/-- An operation starts and the service port becomes PENDING (R6, R174). -/
def beginLibrary (f : Library → Library) (s : State) : State :=
  (s.mapLibrary f).mapPort .service PortRec.becomePending

/-- The completion: slots, operation state, reply and notice in one event (R12). -/
def completeLibrary (s : State) : State := ((s.mapLibrary Library.complete).reply .service .ok).raisePlant .library

end State

end Sys2Proof.Machine
end

