-- ==== Sys2Proof/Machine/Reports.lean ====
section
/-!
DEFINITION. The reports and their codes (R183; 10, Wire Layouts).
-/

namespace Sys2Proof.Machine

/-! ## Codes -/

def BayState.code : BayState → Byte
  | .idle => 0
  | .loaded => 1
  | .await => 2
  | .active => 3
  | .held => 4
  | .finished => 5
  | .halted => 6

def GrantHeld.code : GrantHeld → Byte
  | .none => 0
  | .steam => 1
  | .dry => 2
  | .dryReheat => 3
  | .dryPending => 4

def Ending.code : Ending → Byte
  | .none => 0
  | .complete => 1
  | .underdry => 2
  | .aborted => 3
  | .halted => 4

def faultCode : Option BayFault → Byte
  | none => 0
  | some .overheat => 1
  | some .fanStall => 2
  | some .sensorFault => 3
  | some .waitTimeout => 4

def Damper.code : Damper → Byte
  | .closed => 0
  | .opening => 1
  | .opened => 2
  | .closing => 3

def Reheat.code : Reheat → Byte
  | .notAsked => 0
  | .on => 1
  | .pending => 2

def Commissioning.code : Commissioning → Byte
  | .uncommissioned => 0
  | .commissioned => 1

def ResetCause.code : ResetCause → Byte
  | .powerOn => 0
  | .pin => 1
  | .command => 2

def GenState.code : GenState → Byte
  | .off => 0
  | .heating => 1
  | .ready => 2
  | .delivering => 3
  | .warmHold => 4
  | .tripped => 5

def TripCause.code : TripCause → Byte
  | .none => 0
  | .overtemp => 1
  | .dryFire => 2
  | .fillTimeout => 3
  | .sensor => 4

def CompState.code : CompState → Byte
  | .off => 0
  | .startWait => 1
  | .running => 2
  | .tail => 3

def PumpState.code : PumpState → Byte
  | .off => 0
  | .running => 1
  | .fault => 2

def ArbMode.code : ArbMode → Byte
  | .rotating => 0
  | .fixed => 1

def Status.code : Status → Byte
  | .ok => 0
  | .pending => 1
  | .unknownCommand => 2
  | .badLength => 3
  | .badValue => 4
  | .wrongState => 5
  | .locked => 6
  | .slotEmpty => 7
  | .slotBusy => 8
  | .notPermitted => 9

/-- Slot 0 to 15, INLINE 0xFE, absent 0xFF. -/
def sourceCode : Option Source → Byte
  | some (.slot n) => byteOf n.val
  | some .inlined => 0xFE
  | none => 0xFF

/-- A holder, or 0xFF for none. -/
def holderCode : Option Bay → Byte
  | some k => byteOf k.val
  | none => 0xFF

/-- A DRY slot's holder and reheat status, each 0xFF when the slot is not held. -/
def slotBytes : Option DrySlot → List Byte
  | some d => [byteOf d.bay.val, d.reheat.code]
  | none => [0xFF, 0xFF]

/-- A byte of flags, the head of the list in bit 0. -/
def flagsByte : List Bool → Byte
  | [] => 0
  | b :: rest => boolByte b ||| (flagsByte rest <<< 1)

/-! ## READ_BAY (35 bytes) -/

/-- Hundredths of a second in whole seconds, rounded up (R17). -/
def secondsUp (ticks : Nat) : Nat := (ticks + 99) / 100

/-- Hundredths of a second in whole seconds, rounded down (R17). -/
def secondsDown (ticks : Nat) : Nat := ticks / 100

namespace State

/-- The conditions byte of READ_BAY. -/
def conditions (s : State) (k : Bay) : Byte :=
  flagsByte [(s.bay k).underdry, (s.bay k).door = .opened, (s.air k).vent, (s.air k).reheater, (s.est.get k).valid]

/-- The bay report. -/
def bayReport (s : State) (k : Bay) : List Byte :=
  [(s.bay k).state.code, sourceCode (s.bay k).source, byteOf (s.bay k).stepIndex, byteOf (s.bay k).stepCount] ++
  be16 (secondsUp (s.bay k).stepRemaining) ++ be16 (secondsDown (s.bay k).waitElapsed) ++
  [(s.arb.grantHeld k).code, (s.bay k).outcome.code, faultCode (s.bay k).fault, s.conditions k,
   byteOf (s.bay k).overheatRun] ++
  be16 (secondsUp ((s.bay k).purgeRemaining.getD 0)) ++
  [(s.air k).damper.code, byteOf (s.air k).fanLevel] ++
  be16 ((s.air k).tacho.period.getD 0) ++
  be16 ((s.est.get k).m / 1000).toNat ++ [byteOf (s.est.get k).window.length] ++ be32Int (s.est.get k).window.sum ++
  be16Int (s.chan (bayChannel k 0)).value ++ be16Int (s.chan (bayChannel k 1)).value ++
  be16Int (s.chan (bayChannel k 2)).value ++ be16Int (s.chan (bayChannel k 3)).value ++
  [flagsByte [(s.chan (bayChannel k 0)).faulted, (s.chan (bayChannel k 1)).faulted,
    (s.chan (bayChannel k 2)).faulted, (s.chan (bayChannel k 3)).faulted]]

/-! ## READ_PLANT (30 bytes) -/

/-- The plant report. -/
def plantReport (s : State) : List Byte :=
  [s.arb.commissioning.code, s.resetCause.code] ++ be16 s.arb.budget ++ be16 s.arb.committed ++
  [holderCode s.arb.steamRow] ++ slotBytes s.arb.slotA ++ slotBytes s.arb.slotB ++
  [s.steam.gen.code, s.steam.tripCause.code, s.dry.comp.code] ++
  be16Int (s.chan boilerChannel).value ++ be16Int s.water.reservoirLevel ++ [boolByte s.water.reservoirLow] ++
  be16Int s.water.condensateLevel ++ [boolByte s.water.condensateFull] ++
  [s.water.pump.code, boolByte s.water.drainFault] ++ s.arb.ring.map (fun k => byteOf k.val) ++
  [s.arb.mode.code, flagsByte [s.arb.masks.b0, s.arb.masks.b1, s.arb.masks.b2, s.arb.masks.b3]]

/-! ## READ_CHANNELS (116 bytes) -/

/-- One entry: last raw code, last value, fault state, trim setting. -/
def channelEntry (c : Channel) : List Byte :=
  be16 c.raw.toNat ++ be16Int c.value ++ [boolByte c.faulted, BitVec.ofInt 8 c.trim]

/-- The channel report (R140). -/
def channelReport (s : State) : List Byte :=
  be16 s.scan.count ++ s.scan.channels.toList.flatMap channelEntry

end State

/-! ## READ_NOTICES (7 bytes) -/

/-- The notices report: the kinds, then the bay sets of the five bay kinds. -/
def NoticeSet.report (ns : NoticeSet) : List Byte :=
  be16 ns.kinds.toNat ++
  [byteOf ns.step.toNat, byteOf ns.grant.toNat, byteOf ns.finish.toNat, byteOf ns.halt.toNat, byteOf ns.door.toNat]

end Sys2Proof.Machine
end

