-- ==== Sys2Proof/Machine/Outputs.lean ====
section
/-!
DEFINITION. What stands at the part's lines and what a master reads: views of State, no command runs them (R97, R104, R117,
R119, R121, R123, R124, R170, R173, R181).
-/

namespace Sys2Proof.Machine

/-! ## The bus -/

/-- The 7-bit target address (R170). -/
def State.targetAddress (s : State) : BitVec 7 := if s.addrHigh then 0x5B else 0x5A

/-- A write address is acknowledged: it is the port's address and the port is not PENDING (R170). -/
def State.acknowledgesWrite (s : State) (p : Port) (address : BitVec 7) : Bool :=
  address = s.targetAddress && (s.port p).phase ≠ .pending

/-- A read address is acknowledged in every state (R170). -/
def State.acknowledgesRead (s : State) (address : BitVec 7) : Bool := address = s.targetAddress

/-- The bytes of a reply: status, length, data (R173). -/
def Reply.bytes (r : Reply) : List Byte := r.status.code :: byteOf r.data.length :: r.data

/-- The byte a read returns at an offset: past the end, and from an empty reply buffer, 0x00 (R173). -/
def PortRec.readByte (p : PortRec) (offset : Nat) : Byte :=
  match p.reply with
  | some r => r.bytes.getD offset 0
  | none => 0

/-- A remaining byte of the read that was in progress on the port at the last reset, if one was: the port has released the data
line, and the master reads 0xFF (R175). -/
def PortRec.cutReadByte (p : PortRec) : Option Byte := if p.readAtReset then some 0xFF else none

/-! ## The plant lines -/

/-- The output lines of one bay. -/
structure BayOutputs where
  steamValve  : Bool
  damperOpen  : Bool
  damperClose : Bool
  reheater    : Bool
  ventFlap    : Bool
  fanCycles   : Nat
  attention   : Bool
deriving DecidableEq, Repr

/-- The output lines of the part. A PWM line is given by its high time: the fans in 320ths of 40 µs, the compressor speed in
µs of 1000. An attention line is `true` when pulled low. -/
structure Outputs where
  bay              : PerBay BayOutputs
  heater           : Bool
  fillPump         : Bool
  compressorEnable : Bool
  compressorSpeed  : Nat
  drainPump        : Bool
  attention        : Bool
deriving DecidableEq, Repr

/-- The high time of a fan's PWM in oscillator cycles: level × 320 + 7, divided by 15 and truncated (R124). -/
def fanHighCycles (level : Nat) : Nat := (level * 320 + 7) / 15

/-- The compressor is enabled in RUNNING and TAIL (R117). -/
def DryingCircuit.enabled (d : DryingCircuit) : Bool := d.comp = .running || d.comp = .tail

/-- The high time of the speed line, in µs of 1000 (R117). -/
def DryingCircuit.speedHigh (d : DryingCircuit) : Nat := d.speed * 10

namespace State

def bayOutputs (s : State) (k : Bay) : BayOutputs where
  steamValve := s.steam.valves.get k
  damperOpen := (s.air k).damper = .opening
  damperClose := (s.air k).damper = .closing
  reheater := (s.air k).reheater
  ventFlap := (s.air k).vent
  fanCycles := fanHighCycles (s.air k).fanLevel
  attention := (s.port (.bay k)).attentionLow

def outputs (s : State) : Outputs where
  bay := PerBay.ofFn s.bayOutputs
  heater := s.steam.heater
  fillPump := s.steam.fill.isSome
  compressorEnable := s.dry.enabled
  compressorSpeed := s.dry.speedHigh
  drainPump := s.water.pump = .running
  attention := (s.port .service).attentionLow

end State

end Sys2Proof.Machine
end

