-- ==== Sys2Proof/Machine/Timers.lean ====
section
/-!
DEFINITION. The events of the debounced inputs and of the timers, and the 10 ms tick. An event that finds its timer not
reached, or its input already in that state, changes nothing (log 2, log 7).
-/

namespace Sys2Proof.Machine.State

/-! ## Debounced inputs (R18, R103) -/

/-- A door input is at a level with no debounce running. -/
def setDoorInput (k : Bay) (high : Bool) (s : State) : State :=
  s.mapInputs fun i => { i with door := i.door.set k { level := high, run := 0 } }

/-- The low probe input is at a level with no debounce running. -/
def setLowInput (wet : Bool) (s : State) : State := s.mapInputs fun i => { i with low := { level := wet, run := 0 } }

/-- The high probe input is at a level with no debounce running. -/
def setHighInput (wet : Bool) (s : State) : State := s.mapInputs fun i => { i with high := { level := wet, run := 0 } }

/-- A debounced door opening. -/
def doorOpening (k : Bay) (s : State) : State :=
  if (s.bay k).door = .shut then ((s.setDoorInput k true).openDoor k).settle else s

/-- A debounced door closing. -/
def doorClosing (k : Bay) (s : State) : State :=
  if (s.bay k).door = .opened then ((s.setDoorInput k false).closeDoor k).settle else s

/-- The low probe going DRY (R103, R104). -/
def lowProbeDry (s : State) : State :=
  if s.steam.lowProbe = .wet then (s.setLowInput false).mapSteam SteamUnit.lowGoesDry else s

/-- The low probe going WET (R103, R107). -/
def lowProbeWet (s : State) : State :=
  if s.steam.lowProbe = .dry then (s.setLowInput true).mapSteam SteamUnit.lowGoesWet else s

/-- The high probe going WET (R103, R104). -/
def highProbeWet (s : State) : State :=
  if s.steam.highProbe = .dry then (s.setHighInput true).mapSteam SteamUnit.highGoesWet else s

/-- The high probe going DRY (R103). -/
def highProbeDry (s : State) : State :=
  if s.steam.highProbe = .wet then (s.setHighInput false).mapSteam SteamUnit.highGoesDry else s

/-- The door event that a completed debounce calls for. -/
def doorSettled (k : Bay) (s : State) : State :=
  if (s.inputs.door.get k).complete then
    if (s.inputs.door.get k).level then s.doorOpening k else s.doorClosing k
  else s

/-- The low probe event that a completed debounce calls for. -/
def lowSettled (s : State) : State :=
  if s.inputs.low.complete then (if s.inputs.low.level then s.lowProbeWet else s.lowProbeDry) else s

/-- The high probe event that a completed debounce calls for. -/
def highSettled (s : State) : State :=
  if s.inputs.high.complete then (if s.inputs.high.level then s.highProbeWet else s.highProbeDry) else s

/-! ## Steam unit timers (R101, R102, R105, R107) -/

/-- The fill timeout. -/
def fillTimeout (s : State) : State := if s.steam.fillDue then (s.tripGenerator .fillTimeout).settle else s

/-- A dry fire. -/
def dryFire (s : State) : State := if s.steam.dryFireDue then (s.tripGenerator .dryFire).settle else s

/-- The changeover dwell has elapsed: the dwell bay is cleared and a waiting READY generator may deliver (R101, R94). -/
def dwellElapsed (s : State) : State :=
  if s.steam.dwellDue then
    s.mapSteam fun u =>
      let cleared : SteamUnit := { u with dwellBay := none, dwellRemaining := 0 }
      match s.arb.steamRow with
      | some h => cleared.tryDeliver h
      | none => cleared
  else s

/-- The warm hold expires (R102). -/
def warmHoldExpiry (s : State) : State :=
  if s.steam.warmHoldDue then s.mapSteam fun u => { u with gen := .off, warmHold := none } else s

/-! ## Drying circuit timers (R113, R115, R120, R126, R127) -/

/-- Min-off elapses under a compressor in START_WAIT. -/
def minOffExpiry (s : State) : State :=
  if s.dry.minOffDue then
    (s.mapDry (DryingCircuit.minOffExpiry s.arb.settings s.arb.dryHolders)).refreshDraw
  else s

/-- Min-run elapses under a compressor in TAIL: OFF, the draw falls, an evaluation runs (R115, R62). -/
def minRunExpiry (s : State) : State :=
  if s.dry.minRunDue then ((s.mapDry (DryingCircuit.stop s.arb.settings)).refreshDraw).oweAndSettle else s

/-- A damper reaches its end stop, and the reheater's condition may begin to hold (R120, R121). -/
def damperTravelEnd (k : Bay) (s : State) : State :=
  if (s.air k).travelDue then (s.mapAir k AirBay.travelEnd).reheaterFollow k (s.reheatReady k) else s

/-- What is found at a bay's fan takes its place, and the FAN_STALL report of a stall newly found is handed over in the same event
(R127, R128; log 12). The report that the tick has brought is handed over whatever a step end or a door opening of the same tick has
made of the fan, and finds the bay as that has left it (R47; log 28). -/
def findStall (k : Bay) (found : AirBay → AirBay) (s : State) : State :=
  let t := s.mapAir k fun a => (found a).takeReport
  if (s.air k).reportDue || ((t.air k).tacho.stalled && !(s.air k).tacho.stalled) then (t.stallReport k).settle else t

/-- Silence has reached 50 ticks, by which a fan may become STALLED (R126 to R128). -/
def silenceTimeout (k : Bay) (s : State) : State :=
  if (s.air k).silenceDue || (s.air k).reportDue then s.findStall k AirBay.silenceTimeout else s

/-- Spin-up has elapsed with silence at 50: STALLED (R127, R128). -/
def spinUpElapsed (k : Bay) (s : State) : State :=
  if (s.air k).spinUpDue || (s.air k).reportDue then s.findStall k AirBay.becomeStalled else s

/-- A tachometer edge (R125). -/
def tachometerEdge (k : Bay) (capture : Word16) (s : State) : State := s.mapAir k (AirBay.edge capture)

/-! ## Bay timers (R26, R31, R45) and ages (R54) -/

/-- The wait timeout. -/
def waitTimeout (k : Bay) (s : State) : State :=
  if (s.bay k).waitDue then (s.haltBay k .waitTimeout).settle else s

/-- The step ends on its limit. -/
def stepEndsOnLimit (k : Bay) (s : State) : State := if (s.bay k).limitDue then (s.endOnLimit k).settle else s

/-- The purge ends. -/
def purgeEnd (k : Bay) (s : State) : State := if (s.bay k).purgeDue then s.endPurge k else s

/-- An entry whose age has been reached is taken as blocking; one that was not blocking by its bypass count calls for an
evaluation (R54, R62; log 27). -/
def blockingByAge (k : Bay) (s : State) : State :=
  match s.arb.requests.get k with
  | some e =>
    if e.ageMark = .reached then
      let t := s.mapArb fun a => { a with requests := a.requests.set k (some { e with ageMark := .blocking }) }
      if e.bypass < Params.bypassLimit then t.oweAndSettle else t
    else s
  | none => s

/-! ## Scan start (R131) and progress check (R165) -/

/-- A scan starts on the tick that has brought the phase to 200. -/
def scanStart (s : State) : State := if s.scan.startDue then s.mapScan Scanner.start else s

/-- The progress check. -/
def drainProgressCheck (s : State) : State := if s.water.checkDue then s.drainCheck else s

/-! ## The tick -/

/-- An event of each bay in turn. -/
def eachBay (event : Bay → State → State) (s : State) : State := event 3 (event 2 (event 1 (event 0 s)))

/-- The expiries and debounced events that the tick before has brought and no command has taken, in the order of log 3. Each finds
out for itself whether it is due. -/
def takeExpiries (s : State) : State :=
  let steamDone := s.fillTimeout.dryFire.warmHoldExpiry.dwellElapsed
  let airDone := ((steamDone.minOffExpiry.minRunExpiry.eachBay damperTravelEnd).eachBay silenceTimeout).eachBay spinUpElapsed
  let baysDone := (((airDone.eachBay stepEndsOnLimit).eachBay waitTimeout).eachBay purgeEnd).eachBay blockingByAge
  (baysDone.drainProgressCheck.eachBay doorSettled).lowSettled.highSettled

/-- All that the tick before has brought: its expiries, and last the start of a scan (log 3). -/
def takeDue (s : State) : State := s.takeExpiries.scanStart

/-- The levels of the inputs as last sampled. -/
def linesSeen (s : State) : Lines where
  doorHigh := s.inputs.door.map (·.level)
  lowWet := s.inputs.low.level
  highWet := s.inputs.high.level

/-- The tick samples the debounced inputs (R18, R103). -/
def sampleInputs (lines : Lines) (s : State) : State :=
  s.mapInputs fun i =>
    { door := PerBay.ofFn fun k =>
        (i.door.get k).sample (decide ((s.bay k).door = .opened)) (lines.doorHigh.get k)
      low := i.low.sample (decide (s.steam.lowProbe = .wet)) lines.lowWet
      high := i.high.sample (decide (s.steam.highProbe = .wet)) lines.highWet }

/-- Every running timer counts one tick, each from the state before the tick (log 4). -/
def countTick (s : State) : State :=
  { s with
    bays := PerBay.ofFn fun k => (s.bay k).tick s.arb.settings.waitTimeout (s.counts k)
    arb := { s.arb with requests := s.arb.requests.map (Option.map (Entry.tick s.arb.settings)) }
    steam := s.steam.tick
    dry := s.dry.tick
    scan := s.scan.tick
    water := s.water.tick
    counter := s.counter + Params.microsPerTick }

/-- The FAN_STALL report of one bay's fan (R128). -/
def reportStall (k : Bay) (s : State) : State := if (s.air k).tacho.stalled then s.stallReport k else s

/-- The 10 ms tick: what is still due from the tick before, the inputs, the counts, the stall reports, one evaluation where a
halt calls for it. -/
def tick (lines : Option Lines) (s : State) : State :=
  let due := s.takeDue
  (((due.sampleInputs (lines.getD due.linesSeen)).countTick).eachBay reportStall).settle

/-! ## The scan complete (R132, R133, R137) -/

/-- The end of the conversion of channel 18: scan complete. It comes after the tick that started the scan, so what that tick has
brought is settled first, the progress check among it (R165; log 3). -/
def finishScan (code : Code) (s : State) : State := (s.takeExpiries.mapScan (Scanner.endLast code)).deliverScan

/-- The end of a conversion (R132); that of channel 18 is the scan complete (log 6). With no conversion running nothing
happens (log 7). -/
def endConversion (code : Code) (s : State) : State :=
  match s.scan.converting with
  | some n => if n = condensateChannel then s.finishScan code else s.mapScan (Scanner.endConversion n code)
  | none => s

end Sys2Proof.Machine.State
end

