-- ==== Sys2Proof/Machine/BusRows.lean ====
section
/-!
DEFINITION. The meanings of the resets and of the bus rows (R170 to R175, R179).
-/

namespace Sys2Proof.Machine

/-- A reset of the whole part: every block as its chapter leaves it, the library's slots kept (R15, R16, R179). The commands
that are waiting are no state of the part and wait on. -/
def State.resetAll (cause : ResetCause) (pins : Pins) (s : State) : State :=
  { State.afterReset cause pins s.library.slots with pending := s.pending }

/-- POWER_ON_RESET. With RESETN still low as it ends the part records PIN (R179). -/
def execPowerOnReset (pins : Pins) (resetnLow : Bool) (s : State) : Host.Outcome State Fault Refusal :=
  .next (s.resetAll (if resetnLow then .pin else .powerOn) pins)

/-- RESETN_RESET (R179). -/
def execResetnReset (pins : Pins) (s : State) : Host.Outcome State Fault Refusal := .next (s.resetAll .pin pins)

/-- RESET_PART: the service port comes out REPLY_READY with OK (R179). The write that carried it is the transaction on that port's
bus, so no read is cut there (R175). -/
def execResetPart (p : Port) (pins : Pins) (s : State) : Host.Outcome State Fault Refusal :=
  .next (s.command p .resetPart [] fun s => (s.resetAll .command { pins with serviceRead := false }).reply .service .ok)

/-- WRITE_START. One that repeats the START of a write without a data byte ends that write, whatever address it carries (R171); then
the port's own address begins a write, and any other is not acknowledged (R170). A write with data bytes ends in the row that
takes its frame (log 9). -/
def execWriteStart (p : Port) (address : BitVec 7) (s : State) : Host.Outcome State Fault Refusal :=
  let ended := s.mapPort p PortRec.endEmpty
  .next (if s.acknowledgesWrite p address then ended.mapPort p PortRec.startWrite else ended)

/-- EMPTY_WRITE. -/
def execEmptyWrite (p : Port) (s : State) : Host.Outcome State Fault Refusal := .next (s.mapPort p PortRec.endEmpty)

/-- FRAME_REFUSED: the frame is answered with the status of the first check it fails (R172). Bytes that pass every check are the
row of their command, not this one, and change nothing; no byte at all is an empty write (log 19). -/
def execFrameRefused (p : Port) (written : List Byte) (s : State) : Host.Outcome State Fault Refusal :=
  .next (if written = [] then s.mapPort p PortRec.endEmpty else s.takeFrame p written id)

end Sys2Proof.Machine
end

