-- ==== Sys2Proof/Machine/BayCommands.lean ====
section
/-!
DEFINITION. The meanings of the bay commands (02, table of commands and states).
-/

namespace Sys2Proof.Machine

namespace State

/-- A bay command from either port: the frame is checked, and the sequencer of the bay takes it (R172, R176). -/
def bayCommand (o : Origin) (c : Command) (params : List Byte) (act : Bay → State → State) (s : State) : State :=
  s.command o.port c (o.operand ++ params) (act o.bay)

/-- The sequencer takes a command in the states that allow it and answers OK after the evaluation its event calls for; in
every other state WRONG_STATE, the bay unchanged. -/
def whenState (allowed : BayState → Bool) (p : Port) (k : Bay) (act : State → State) (s : State) : State :=
  if allowed (s.bay k).state then ((act s).settle).reply p .ok else s.reply p .wrongState

/-- LOAD_RECIPE at the sequencer: its own state first, then the library's slot tests (R19, R14). -/
def loadFromSlot (p : Port) (slot : Byte) (water : Nat) (k : Bay) (s : State) : State :=
  if (s.bay k).state = .idle then
    match s.library.lookup slot, slotOfByte slot with
    | .ok program, some n => (s.loadBay k program (.slot n) water).reply p .ok
    | .error status, _ => s.reply p status
    | .ok _, none => s.reply p .badValue
  else s.reply p .wrongState

/-- LOAD_PROGRAM at the sequencer: the record has passed R1 at the port and is normalized by R2 (R19). -/
def loadInline (p : Port) (water : Nat) (record : List Byte) (k : Bay) (s : State) : State :=
  match parseProgram record with
  | some program => s.whenState (· = .idle) p k (loadBay k program.normalize .inlined water)
  | none => s.reply p .badValue

end State

/-- The states in which SKIP_STEP is taken (R37). -/
def BayState.skippable : BayState → Bool
  | .await | .active | .held => true
  | .idle | .loaded | .finished | .halted => false

/-- The states in which ABORT is taken (R38). -/
def BayState.abortable : BayState → Bool
  | .loaded | .await | .active | .held => true
  | .idle | .finished | .halted => false

/-- The states in which CLEAR is taken (R39). -/
def BayState.clearable : BayState → Bool
  | .finished | .halted => true
  | .idle | .loaded | .await | .active | .held => false

/-- LOAD_RECIPE. -/
def execLoadRecipe (o : Origin) (slot : Byte) (water : Word16) (s : State) : Host.Outcome State Fault Refusal :=
  .next (s.bayCommand o .loadRecipe (slot :: wordBytes water) (State.loadFromSlot o.port slot water.toNat))

/-- LOAD_PROGRAM. -/
def execLoadProgram (o : Origin) (water : Word16) (record : List Byte) (s : State) : Host.Outcome State Fault Refusal :=
  .next (s.bayCommand o .loadProgram (wordBytes water ++ record) (State.loadInline o.port water.toNat record))

/-- START (R20). -/
def execStart (o : Origin) (s : State) : Host.Outcome State Fault Refusal :=
  .next (s.bayCommand o .start [] fun k => State.whenState (· = .loaded) o.port k (State.startBay k))

/-- ABORT (R38). -/
def execAbort (o : Origin) (s : State) : Host.Outcome State Fault Refusal :=
  .next (s.bayCommand o .abort [] fun k => State.whenState BayState.abortable o.port k (State.abortBay k))

/-- SKIP_STEP (R37). -/
def execSkipStep (o : Origin) (s : State) : Host.Outcome State Fault Refusal :=
  .next (s.bayCommand o .skipStep [] fun k => State.whenState BayState.skippable o.port k (State.skipBay k))

/-- CLEAR (R39). -/
def execClear (o : Origin) (s : State) : Host.Outcome State Fault Refusal :=
  .next (s.bayCommand o .clear [] fun k => State.whenState BayState.clearable o.port k (State.clearBay k))

/-- READ_BAY, in any bay state (R183). -/
def execReadBay (o : Origin) (s : State) : Host.Outcome State Fault Refusal :=
  .next (s.bayCommand o .readBay [] fun k s => s.replyWith o.port (s.bayReport k))

end Sys2Proof.Machine
end

