-- ==== Sys2Proof/Machine/LibraryCommands.lean ====
section
/-!
DEFINITION. The meanings of the library commands and of the library's own timing (R6 to R12).
-/

namespace Sys2Proof.Machine

namespace State

/-- WRITE_RECIPE at the library: the slot number, then the record (R7, R8). -/
def takeWrite (p : Port) (slot : Byte) (record : List Byte) (s : State) : State :=
  match slotOfByte slot, parseProgram record with
  | some n, some program => s.beginLibrary (Library.startWrite n program.normalize)
  | _, _ => s.reply p .badValue

/-- ERASE_RECIPE at the library (R7, R10). -/
def takeErase (p : Port) (slot : Byte) (s : State) : State :=
  match slotOfByte slot with
  | some n => s.beginLibrary (Library.startErase n)
  | none => s.reply p .badValue

/-- The library's operation completes, if it stands in its last phase (R12; log 6). -/
def libraryCompletion (s : State) : State := if s.library.inLastPhase then s.completeLibrary else s

/-- A phase ends: the next begins, or the operation completes (R6, R12). -/
def libraryPhaseEnd (s : State) : State :=
  if s.library.inLastPhase then s.completeLibrary else s.mapLibrary Library.nextPhase

end State

/-- WRITE_RECIPE. -/
def execWriteRecipe (p : Port) (slot : Byte) (record : List Byte) (s : State) : Host.Outcome State Fault Refusal :=
  .next (s.command p .writeRecipe (slot :: record) (State.takeWrite p slot record))

/-- ERASE_RECIPE. -/
def execEraseRecipe (p : Port) (slot : Byte) (s : State) : Host.Outcome State Fault Refusal :=
  .next (s.command p .eraseRecipe [slot] (State.takeErase p slot))

/-- ERASE_LIBRARY begins with slot 0 (R11). -/
def execEraseLibrary (p : Port) (s : State) : Host.Outcome State Fault Refusal :=
  .next (s.command p .eraseLibrary [] fun s => s.beginLibrary (Library.eraseFrom 0))

/-- LIBRARY_PHASE_END. -/
def execLibraryPhaseEnd (s : State) : Host.Outcome State Fault Refusal := .next s.libraryPhaseEnd

/-- LIBRARY_COMPLETION. -/
def execLibraryCompletion (s : State) : Host.Outcome State Fault Refusal := .next s.libraryCompletion

end Sys2Proof.Machine
end

