-- ==== Sys2Proof/Machine/PortCommands.lean ====
section
/-!
DEFINITION. The meanings of the open reads and the port commands (R13, R181 to R183).
-/

namespace Sys2Proof.Machine

/-- READ_PLANT (R183). -/
def execReadPlant (p : Port) (s : State) : Host.Outcome State Fault Refusal :=
  .next (s.command p .readPlant [] fun s => s.replyWith p s.plantReport)

/-- READ_RECIPE (R13). -/
def execReadRecipe (p : Port) (slot : Byte) (s : State) : Host.Outcome State Fault Refusal :=
  .next (s.command p .readRecipe [slot] fun s =>
    match s.library.lookup slot with
    | .ok program => s.replyWith p program.bytes
    | .error status => s.reply p status)

/-- What READ_NOTICES takes from a port: the enabled part of its set is reported and removed (R182). -/
def PortRec.readNotices (p : PortRec) : PortRec :=
  ({ p with notices := p.notices.select (~~~p.mask) }).answer .ok (p.notices.select p.mask).report

/-- READ_NOTICES. -/
def execReadNotices (p : Port) (s : State) : Host.Outcome State Fault Refusal :=
  .next (s.command p .readNotices [] fun s => s.mapPort p PortRec.readNotices)

/-- SET_NOTICE_MASK replaces the port's mask whole; the six unused positions are ignored (R181). -/
def execSetNoticeMask (p : Port) (mask : Word16) (s : State) : Host.Outcome State Fault Refusal :=
  .next (s.command p .setNoticeMask (wordBytes mask) fun s =>
    (s.mapPort p fun r => { r with mask := mask.setWidth 10 }).reply p .ok)

end Sys2Proof.Machine
end

