-- ==== Sys2Proof/Machine/ServiceCommands.lean ====
section
/-!
DEFINITION. The meanings of the service commands to the arbiter, the steam unit, the water inventory and the scanner.
-/

namespace Sys2Proof.Machine

namespace State

/-- An accepted settings record, applied whole (R178, R50, R73, R168). -/
def applySettings (st : Settings) (s : State) : State :=
  ((s.mapArb fun a => { a with settings := st }).refreshDraw).mapWater (WaterInventory.onSettings st)

/-- SET_PLANT at the arbiter: LOCKED in COMMISSIONED, then the record's tests (R178). -/
def takeSettings (p : Port) (record : List Byte) (s : State) : State :=
  match s.arb.commissioning with
  | .commissioned => s.reply p .locked
  | .uncommissioned =>
    match parseSettings record with
    | some st => (s.applySettings st).reply p .ok
    | none => s.reply p .badValue

/-- COMMISSION at the arbiter (R49). -/
def takeCommission (p : Port) (s : State) : State :=
  match s.arb.commissioning with
  | .commissioned => s.reply p .wrongState
  | .uncommissioned => ((s.mapArb fun a => { a with commissioning := .commissioned }).oweAndSettle).reply p .ok

/-- The budget in force after an operand, clamped (R78). -/
def clampBudget (watts : Nat) : Nat := clampNat 1000 7200 watts

/-- SET_BUDGET at the arbiter: the budget, the shed of a fall, one evaluation, the reply (R78, R85). -/
def takeBudget (p : Port) (watts : Nat) (s : State) : State :=
  (((s.mapArb fun a => { a with budget := clampBudget watts }).shed).oweAndSettle).reply p .ok

/-- A command that names a bay by a byte: outside 0 to 3 it is refused, else the arbiter changes and an evaluation runs (R57,
R58). -/
def takeOnBay (p : Port) (b : Byte) (change : Bay → Arbiter → Arbiter) (s : State) : State :=
  match bayOfByte b with
  | some k => ((s.mapArb (change k)).oweAndSettle).reply p .ok
  | none => s.reply p .badValue

/-- SET_ARBITRATION at the arbiter (R56). -/
def takeMode (p : Port) (mode : Byte) (s : State) : State :=
  match modeOfByte mode with
  | some m => ((s.mapArb fun a => { a with mode := m }).oweAndSettle).reply p .ok
  | none => s.reply p .badValue

/-- The mask of a bay set or cleared (R58). -/
def setMask (on : Bool) (k : Bay) (a : Arbiter) : Arbiter := { a with masks := a.masks.set k on }

/-- The generator's part of CLEAR_TRIP: OFF, and the report that it has left TRIPPED (R109, R69). -/
def clearGenerator (s : State) : State :=
  let boiler := s.chan boilerChannel
  if s.steam.clearable boiler.faulted boiler.value then (s.mapSteam SteamUnit.clearTrip).mapArb Arbiter.owe else s

/-- The water inventory's part of CLEAR_TRIP (R167). -/
def clearDrain (s : State) : State := if s.water.clearable then s.mapWater WaterInventory.clearFault else s

/-- CLEAR_TRIP finds something to clear (R109). -/
def tripClearable (s : State) : Bool :=
  s.steam.clearable (s.chan boilerChannel).faulted (s.chan boilerChannel).value || s.water.clearable

/-- CLEAR_TRIP (R109, R167). -/
def takeClearTrip (p : Port) (s : State) : State :=
  if s.tripClearable then (s.clearGenerator.clearDrain.settle).reply p .ok else s.reply p .wrongState

/-- SET_TRIM at the scanner (R139). -/
def takeTrim (p : Port) (channel trim : Byte) (s : State) : State :=
  match channelOfByte channel with
  | some n => (s.mapScan (Scanner.setTrim n trim)).reply p .ok
  | none => s.reply p .badValue

end State

/-- SET_PLANT. -/
def execSetPlant (p : Port) (record : List Byte) (s : State) : Host.Outcome State Fault Refusal :=
  .next (s.command p .setPlant record (State.takeSettings p record))

/-- COMMISSION. -/
def execCommission (p : Port) (s : State) : Host.Outcome State Fault Refusal :=
  .next (s.command p .commission [] (State.takeCommission p))

/-- SET_BUDGET. -/
def execSetBudget (p : Port) (watts : Word16) (s : State) : Host.Outcome State Fault Refusal :=
  .next (s.command p .setBudget (wordBytes watts) (State.takeBudget p watts.toNat))

/-- SET_ARBITRATION. -/
def execSetArbitration (p : Port) (mode : Byte) (s : State) : Host.Outcome State Fault Refusal :=
  .next (s.command p .setArbitration [mode] (State.takeMode p mode))

/-- PROMOTE. -/
def execPromote (p : Port) (b : Byte) (s : State) : Host.Outcome State Fault Refusal :=
  .next (s.command p .promote [b] (State.takeOnBay p b Arbiter.promote))

/-- MASK. -/
def execMask (p : Port) (b : Byte) (s : State) : Host.Outcome State Fault Refusal :=
  .next (s.command p .mask [b] (State.takeOnBay p b (State.setMask true)))

/-- UNMASK. -/
def execUnmask (p : Port) (b : Byte) (s : State) : Host.Outcome State Fault Refusal :=
  .next (s.command p .unmask [b] (State.takeOnBay p b (State.setMask false)))

/-- CLEAR_TRIP. -/
def execClearTrip (p : Port) (s : State) : Host.Outcome State Fault Refusal :=
  .next (s.command p .clearTrip [] (State.takeClearTrip p))

/-- SET_TRIM. -/
def execSetTrim (p : Port) (channel trim : Byte) (s : State) : Host.Outcome State Fault Refusal :=
  .next (s.command p .setTrim [channel, trim] (State.takeTrim p channel trim))

/-- READ_CHANNELS (R140). -/
def execReadChannels (p : Port) (s : State) : Host.Outcome State Fault Refusal :=
  .next (s.command p .readChannels [] fun s => s.replyWith p s.channelReport)

end Sys2Proof.Machine
end

