-- ==== Sys2Proof/Machine/TimeRows.lean ====
section
/-!
DEFINITION. The meanings of the rows that time, the converter and the inputs bring.
-/

namespace Sys2Proof.Machine

/-- TICK (R26, R30, R53, R101, R102, R104, R107, R113, R115, R120, R126 to R128, R131, R165). -/
def execTick (lines : Option Lines) (s : State) : Host.Outcome State Fault Refusal := .next (s.tick lines)

/-- SCAN_START (R131). -/
def execScanStart (s : State) : Host.Outcome State Fault Refusal := .next s.scanStart

/-- CONVERSION_END (R132). -/
def execConversionEnd (code : Code) (s : State) : Host.Outcome State Fault Refusal := .next (s.endConversion code)

/-- SCAN_COMPLETE: the end of the conversion of channel 18 (R132, R133); before that it cannot come (log 6, log 7). -/
def execScanComplete (code : Code) (s : State) : Host.Outcome State Fault Refusal :=
  .next (if s.scan.converting = some condensateChannel then s.finishScan code else s)

/-- WAIT_TIMEOUT (R26). -/
def execWaitTimeout (k : Bay) (s : State) : Host.Outcome State Fault Refusal := .next (s.waitTimeout k)

/-- STEP_ENDS_ON_LIMIT (R31). -/
def execStepEndsOnLimit (k : Bay) (s : State) : Host.Outcome State Fault Refusal := .next (s.stepEndsOnLimit k)

/-- BLOCKING_BY_AGE (R54). -/
def execBlockingByAge (k : Bay) (s : State) : Host.Outcome State Fault Refusal := .next (s.blockingByAge k)

/-- DOOR_OPENING (R40, R42). -/
def execDoorOpening (k : Bay) (s : State) : Host.Outcome State Fault Refusal := .next (s.doorOpening k)

/-- DOOR_CLOSING (R41, R42). -/
def execDoorClosing (k : Bay) (s : State) : Host.Outcome State Fault Refusal := .next (s.doorClosing k)

/-- PURGE_END (R45). -/
def execPurgeEnd (k : Bay) (s : State) : Host.Outcome State Fault Refusal := .next (s.purgeEnd k)

/-- LOW_PROBE_DRY (R104). -/
def execLowProbeDry (s : State) : Host.Outcome State Fault Refusal := .next s.lowProbeDry

/-- LOW_PROBE_WET (R107). -/
def execLowProbeWet (s : State) : Host.Outcome State Fault Refusal := .next s.lowProbeWet

/-- HIGH_PROBE_WET (R104). -/
def execHighProbeWet (s : State) : Host.Outcome State Fault Refusal := .next s.highProbeWet

/-- HIGH_PROBE_DRY (R103). -/
def execHighProbeDry (s : State) : Host.Outcome State Fault Refusal := .next s.highProbeDry

/-- FILL_TIMEOUT (R105). -/
def execFillTimeout (s : State) : Host.Outcome State Fault Refusal := .next s.fillTimeout

/-- DRY_FIRE (R107). -/
def execDryFire (s : State) : Host.Outcome State Fault Refusal := .next s.dryFire

/-- DWELL_ELAPSED (R101). -/
def execDwellElapsed (s : State) : Host.Outcome State Fault Refusal := .next s.dwellElapsed

/-- WARM_HOLD_EXPIRY (R102). -/
def execWarmHoldExpiry (s : State) : Host.Outcome State Fault Refusal := .next s.warmHoldExpiry

/-- MIN_OFF_EXPIRY (R113). -/
def execMinOffExpiry (s : State) : Host.Outcome State Fault Refusal := .next s.minOffExpiry

/-- MIN_RUN_EXPIRY (R115). -/
def execMinRunExpiry (s : State) : Host.Outcome State Fault Refusal := .next s.minRunExpiry

/-- DAMPER_TRAVEL_END (R120). -/
def execDamperTravelEnd (k : Bay) (s : State) : Host.Outcome State Fault Refusal := .next (s.damperTravelEnd k)

/-- TACHOMETER_EDGE (R125). -/
def execTachometerEdge (k : Bay) (capture : Word16) (s : State) : Host.Outcome State Fault Refusal :=
  .next (s.tachometerEdge k capture)

/-- SILENCE_TIMEOUT (R126). -/
def execSilenceTimeout (k : Bay) (s : State) : Host.Outcome State Fault Refusal := .next (s.silenceTimeout k)

/-- SPIN_UP_ELAPSED (R127). -/
def execSpinUpElapsed (k : Bay) (s : State) : Host.Outcome State Fault Refusal := .next (s.spinUpElapsed k)

/-- DRAIN_PROGRESS_CHECK (R165). -/
def execDrainProgressCheck (s : State) : Host.Outcome State Fault Refusal := .next s.drainProgressCheck

end Sys2Proof.Machine
end

