-- ==== Sys2Proof/Machine/Dispatch.lean ====
section
/-!
DEFINITION. One arm for each row of the table.
-/

namespace Sys2Proof.Machine

def exec (i : Instr) (s : State) : Host.Outcome State Fault Refusal :=
  match i with
  | .powerOnReset pins resetnLow => Sys2Proof.Machine.execPowerOnReset pins resetnLow s
  | .resetnReset pins => Sys2Proof.Machine.execResetnReset pins s
  | .frameRefused p written => Sys2Proof.Machine.execFrameRefused p written s
  | .loadRecipe o slot water => Sys2Proof.Machine.execLoadRecipe o slot water s
  | .loadProgram o water record => Sys2Proof.Machine.execLoadProgram o water record s
  | .start o => Sys2Proof.Machine.execStart o s
  | .abort o => Sys2Proof.Machine.execAbort o s
  | .skipStep o => Sys2Proof.Machine.execSkipStep o s
  | .clear o => Sys2Proof.Machine.execClear o s
  | .readBay o => Sys2Proof.Machine.execReadBay o s
  | .readPlant p => Sys2Proof.Machine.execReadPlant p s
  | .readRecipe p slot => Sys2Proof.Machine.execReadRecipe p slot s
  | .readNotices p => Sys2Proof.Machine.execReadNotices p s
  | .setNoticeMask p mask => Sys2Proof.Machine.execSetNoticeMask p mask s
  | .setPlant p record => Sys2Proof.Machine.execSetPlant p record s
  | .commission p => Sys2Proof.Machine.execCommission p s
  | .setBudget p watts => Sys2Proof.Machine.execSetBudget p watts s
  | .setArbitration p mode => Sys2Proof.Machine.execSetArbitration p mode s
  | .promote p b => Sys2Proof.Machine.execPromote p b s
  | .mask p b => Sys2Proof.Machine.execMask p b s
  | .unmask p b => Sys2Proof.Machine.execUnmask p b s
  | .clearTrip p => Sys2Proof.Machine.execClearTrip p s
  | .writeRecipe p slot record => Sys2Proof.Machine.execWriteRecipe p slot record s
  | .eraseRecipe p slot => Sys2Proof.Machine.execEraseRecipe p slot s
  | .eraseLibrary p => Sys2Proof.Machine.execEraseLibrary p s
  | .setTrim p channel trim => Sys2Proof.Machine.execSetTrim p channel trim s
  | .readChannels p => Sys2Proof.Machine.execReadChannels p s
  | .resetPart p pins => Sys2Proof.Machine.execResetPart p pins s
  | .libraryPhaseEnd => Sys2Proof.Machine.execLibraryPhaseEnd s
  | .libraryCompletion => Sys2Proof.Machine.execLibraryCompletion s
  | .tick lines => Sys2Proof.Machine.execTick lines s
  | .scanStart => Sys2Proof.Machine.execScanStart s
  | .conversionEnd code => Sys2Proof.Machine.execConversionEnd code s
  | .scanComplete code => Sys2Proof.Machine.execScanComplete code s
  | .waitTimeout k => Sys2Proof.Machine.execWaitTimeout k s
  | .stepEndsOnLimit k => Sys2Proof.Machine.execStepEndsOnLimit k s
  | .blockingByAge k => Sys2Proof.Machine.execBlockingByAge k s
  | .doorOpening k => Sys2Proof.Machine.execDoorOpening k s
  | .doorClosing k => Sys2Proof.Machine.execDoorClosing k s
  | .purgeEnd k => Sys2Proof.Machine.execPurgeEnd k s
  | .lowProbeDry => Sys2Proof.Machine.execLowProbeDry s
  | .lowProbeWet => Sys2Proof.Machine.execLowProbeWet s
  | .highProbeWet => Sys2Proof.Machine.execHighProbeWet s
  | .highProbeDry => Sys2Proof.Machine.execHighProbeDry s
  | .fillTimeout => Sys2Proof.Machine.execFillTimeout s
  | .dryFire => Sys2Proof.Machine.execDryFire s
  | .dwellElapsed => Sys2Proof.Machine.execDwellElapsed s
  | .warmHoldExpiry => Sys2Proof.Machine.execWarmHoldExpiry s
  | .minOffExpiry => Sys2Proof.Machine.execMinOffExpiry s
  | .minRunExpiry => Sys2Proof.Machine.execMinRunExpiry s
  | .damperTravelEnd k => Sys2Proof.Machine.execDamperTravelEnd k s
  | .tachometerEdge k capture => Sys2Proof.Machine.execTachometerEdge k capture s
  | .silenceTimeout k => Sys2Proof.Machine.execSilenceTimeout k s
  | .spinUpElapsed k => Sys2Proof.Machine.execSpinUpElapsed k s
  | .drainProgressCheck => Sys2Proof.Machine.execDrainProgressCheck s
  | .writeStart p address => Sys2Proof.Machine.execWriteStart p address s
  | .emptyWrite p => Sys2Proof.Machine.execEmptyWrite p s

end Sys2Proof.Machine
end

