-- ==== Sys2Proof/Safety.lean ====
section
/-!
DEFINITION. What counts as a sound state between two commands, in the terms of the rules. Each law is a statement about the
state that the last event left, which is what the masters see (R72).
-/

namespace Sys2Proof

/-- The bay operand names one of the four bays (R172, check 5). -/
def Origin.inRange : Origin → Bool
  | .panel _ => true
  | .main b => decide (b.toNat < 4)

/-- The port a row is written on, for the rows that are writes on a bus. -/
def Instr.port? : Instr → Option Port
  | .frameRefused p _ | .readPlant p | .readRecipe p _ | .readNotices p | .setNoticeMask p _ | .setPlant p _
  | .commission p | .setBudget p _ | .setArbitration p _ | .promote p _ | .mask p _ | .unmask p _ | .clearTrip p
  | .writeRecipe p _ _ | .eraseRecipe p _ | .eraseLibrary p | .setTrim p _ _ | .readChannels p | .resetPart p _
  | .writeStart p _ | .emptyWrite p => some p
  | .loadRecipe o _ _ | .loadProgram o _ _ | .start o | .abort o | .skipStep o | .clear o | .readBay o => some o.port
  | .powerOnReset _ _ | .resetnReset _ | .libraryPhaseEnd | .libraryCompletion | .tick _ | .scanStart
  | .conversionEnd _ | .scanComplete _ | .waitTimeout _ | .stepEndsOnLimit _ | .blockingByAge _ | .doorOpening _
  | .doorClosing _ | .purgeEnd _ | .lowProbeDry | .lowProbeWet | .highProbeWet | .highProbeDry | .fillTimeout
  | .dryFire | .dwellElapsed | .warmHoldExpiry | .minOffExpiry | .minRunExpiry | .damperTravelEnd _
  | .tachometerEdge _ _ | .silenceTimeout _ | .spinUpElapsed _ | .drainProgressCheck => none

end Sys2Proof

namespace Sys2Proof.Machine

/-! ## What an event leaves as it was -/

/-- A port apart from its notice set. -/
structure PortBus where
  phase       : PortPhase
  rx          : List Byte
  overrun     : Bool
  reply       : Option Reply
  mask        : BitVec 10
  readAtReset : Bool

def PortRec.bus (p : PortRec) : PortBus := ⟨p.phase, p.rx, p.overrun, p.reply, p.mask, p.readAtReset⟩

/-- The parts of State that no grant, release, revocation, evaluation, halt or step entry changes. -/
structure Stable where
  library       : Library
  scan          : Scanner
  est           : PerBay Estimator
  water         : WaterInventory
  counter       : Word16
  inputs        : Inputs
  resetCause    : ResetCause
  addrHigh      : Bool
  pending       : List Instr
  commissioning : Commissioning
  mode          : ArbMode
  masks         : PerBay Bool
  budget        : Nat
  settings      : Settings
  bus           : Port → PortBus

def State.stable (s : State) : Stable where
  library := s.library
  scan := s.scan
  est := s.est
  water := s.water
  counter := s.counter
  inputs := s.inputs
  resetCause := s.resetCause
  addrHigh := s.addrHigh
  pending := s.pending
  commissioning := s.arb.commissioning
  mode := s.arb.mode
  masks := s.arb.masks
  budget := s.arb.budget
  settings := s.arb.settings
  bus := fun p => (s.port p).bus

/-- An entry as a post makes it (R52). -/
def Entry.fresh (r : Resource) (boost : Bool) : Entry where
  resource := r
  boost := boost
  age := 0
  bypass := 0
  ageMark := .young

/-- The fields of a program record lie in what the wire can carry (Wire Layouts). -/
abbrev Program.OnTheWire (p : Program) : Prop :=
  p.fabricLimit < 256 ∧ p.rateFloor < 65536 ∧ 1 ≤ p.steps.length ∧ p.steps.length ≤ 12 ∧
  ∀ r ∈ p.steps, r.fanLevel < 256 ∧ r.duration < 65536 ∧ r.airTemp < 256 ∧
    if r.kind = .cool then -32768 ≤ r.target ∧ r.target < 32768 else 0 ≤ r.target ∧ r.target < 65536

/-- The steam unit after a trip: TRIPPED with its cause, everything off and closed, the warm hold and the fill ended; a delivering
holder leaves its changeover dwell behind, as at any grant's end (R101, R108). -/
def SteamUnit.tripped (u : SteamUnit) (st : Settings) (holder : Option Bay) (cause : TripCause) : SteamUnit :=
  let dwells : Prop := u.gen = .delivering ∧ holder.isSome ∧ st.dwell ≠ 0
  { u with
    gen := .tripped, tripCause := cause, heater := false, dryFire := 0, fill := none, warmHold := none
    valves := PerBay.fill false
    dwellBay := if dwells then holder else u.dwellBay
    dwellRemaining := if dwells then st.dwell * 100 else u.dwellRemaining }

namespace State

/-- The port acknowledges a write: it is not PENDING (R170). -/
abbrev Accepts (s : State) (p : Port) : Prop := (s.port p).phase ≠ .pending

/-- Between `s` and `t` bay `j` is untouched: its context, what it holds and asks for, its damper, fan and flap, the notices of
its port. Its reheater may follow its reheat status. -/
structure KeepsBay (s t : State) (j : Bay) : Prop where
  bay     : t.bay j = s.bay j
  request : t.arb.requests.get j = s.arb.requests.get j
  steam   : t.arb.holdsSteam j = s.arb.holdsSteam j
  dry     : t.arb.holdsDry j = s.arb.holdsDry j
  air     : t.air j = { s.air j with reheater := (t.air j).reheater }
  notices : (t.port (.bay j)).notices = (s.port (.bay j)).notices

/-- A grant has taken bay `j` from its place in the list to its resource and to ACTIVE (R27, R66). -/
def Granted (s t : State) (j : Bay) (e : Entry) : Prop :=
  t.arb.requests.get j = none ∧
  t.bay j = { (s.bay j) with
    state := .active, waitElapsed := 0, overheatRun := 0, limitReached := false, waitReached := false } ∧
  match e.resource with
  | .steam => t.arb.holdsSteam j = true
  | .dry => t.arb.holdsDry j = true

/-- The entry of bay `j` waits on, its bypass count apart (R53). -/
def StillWaits (s t : State) (j : Bay) (e : Entry) : Prop :=
  t.bay j = s.bay j ∧ ∃ b, t.arb.requests.get j = some { e with bypass := b }

/-- What an evaluation may do between `s` and `t` (R62 to R66): it grants waiting entries and follows with reheat, and it takes
nothing away. A row or slot is newly held only where R59 and R60 let the plant serve it. -/
structure OnlyGrants (s t : State) : Prop where
  stable  : t.stable = s.stable
  idle    : ∀ j, s.arb.requests.get j = none → s.KeepsBay t j
  waiting : ∀ j e, s.arb.requests.get j = some e → s.StillWaits t j e ∨ s.Granted t j e
  row     : s.arb.steamRow ≠ none → t.arb.steamRow = s.arb.steamRow
  steam   : t.arb.steamRow = s.arb.steamRow → t.steam = s.steam
  slotA   : s.arb.slotA ≠ none → t.arb.slotA.map (·.bay) = s.arb.slotA.map (·.bay)
  slotB   : s.arb.slotB ≠ none → t.arb.slotB.map (·.bay) = s.arb.slotB.map (·.bay)
  dry     : t.arb.dryHolders = s.arb.dryHolders → { t.dry with air := s.dry.air } = s.dry
  notices : ∀ q, (t.port q).notices = { (s.port q).notices with grant := (t.port q).notices.grant }
  draw    : s.arb.committed = s.arb.draw s.dry.comp → t.arb.committed = t.arb.draw t.dry.comp
  newRow  : t.arb.steamRow ≠ s.arb.steamRow →
    s.arb.commissioning = .commissioned ∧ s.steam.gen ≠ .tripped ∧ s.water.reservoirLow = false
  newSlot : t.arb.dryHolders ≠ s.arb.dryHolders →
    s.arb.commissioning = .commissioned ∧ s.water.condensateFull = false

/-- One analog channel replaced, and nothing else. -/
def withChannel (s : State) (n : ChannelNo) (f : Channel → Channel) : State :=
  { s with scan := { s.scan with channels := Vector.ofFn fun m => if m = n then f s.scan.channels[m] else s.scan.channels[m] } }

/-- The bay demands of R25 stand at its fan and flap, the damper and reheater being as `a` has them. -/
def demanded (b : BayContext) (a : AirBay) : AirBay := { (a.setFan b.fanDemand) with vent := b.ventDemand }

/-- A bay kind reaches bay port `k` and the service port (R180); `raise` is what it does to a notice set. -/
def NoticesOf (s u : State) (k : Bay) (raise : NoticeSet → NoticeSet) : Prop :=
  ∀ q, (u.port q).notices = if q = .bay k ∨ q = .service then raise (s.port q).notices else (s.port q).notices

/-- Between `s` and `u` only bay `k` has changed: its context, its estimator, its fan and flap, and the notices of a raise. -/
structure OnlyBay (s u : State) (k : Bay) (raise : NoticeSet → NoticeSet) : Prop where
  stable  : u.stable = { s.stable with est := s.est.set k (u.est.get k) }
  arb     : u.arb = s.arb
  steam   : u.steam = s.steam
  dry     : { u.dry with air := s.dry.air } = s.dry
  others  : ∀ j, j ≠ k → u.bay j = s.bay j ∧ u.air j = s.air j
  air     : u.air k = demanded (u.bay k) (s.air k)
  notices : s.NoticesOf u k raise

/-- The bay's DRY slot ends with its hold on the plant. -/
def endsDry (s : State) (k : Bay) : Bool := s.arb.holdsDry k && !s.arb.holdsSteam k

/-- The DRY slots once bay `k` has given up what it held. -/
def slotsLeft (s : State) (k : Bay) : Option DrySlot × Option DrySlot :=
  if s.endsDry k then (Arbiter.slotWithout k s.arb.slotA, Arbiter.slotWithout k s.arb.slotB)
  else (s.arb.slotA, s.arb.slotB)

/-- The bay holds the STEAM row or a DRY slot. -/
def holdsGrant (s : State) (k : Bay) : Bool := s.arb.holdsSteam k || s.arb.holdsDry k

/-- The bay has a request in the list or holds a grant. -/
def claims (s : State) (k : Bay) : Bool := (s.arb.requests.get k).isSome || s.holdsGrant k

/-- Between `s` and `u` bay `k` has released what it held (R67, R100, R114), its place in the request list being `req`; its
context is what `u` says, and a kind may be raised for it. Nothing else has changed. -/
structure LetsGo (s u : State) (k : Bay) (req : Option Entry) (raise : NoticeSet → NoticeSet) : Prop where
  stable  : u.stable = s.stable
  others  : ∀ j, j ≠ k →
    u.bay j = s.bay j ∧ u.air j = s.air j ∧ u.arb.requests.get j = s.arb.requests.get j
  request : u.arb.requests.get k = req
  ring    : u.arb.ring = s.arb.ring
  row     : u.arb.steamRow = if s.arb.holdsSteam k then none else s.arb.steamRow
  steam   : u.steam = if s.arb.holdsSteam k then s.steam.endGrant s.arb.settings k else s.steam
  slots   : (u.arb.slotA, u.arb.slotB) = s.slotsLeft k
  dry     : { u.dry with air := s.dry.air } =
    if s.endsDry k then s.dry.onRelease s.arb.settings u.arb.dryHolders else s.dry
  air     : u.air k = demanded (u.bay k)
    (if s.endsDry k then { (s.air k).closeDamper with reheater := false } else s.air k)
  notices : s.NoticesOf u k raise
  draw    : s.arb.committed = s.arb.draw s.dry.comp → u.arb.committed = u.arb.draw u.dry.comp

/-- `LetsGo` with `b` as the bay's context after it, and then the evaluation of R62 where one was owed before or `asks` calls for
one. -/
def LetsGoThenSettles (s t : State) (k : Bay) (req : Option Entry) (raise : NoticeSet → NoticeSet) (b : BayContext)
    (asks : Bool) : Prop :=
  ∃ u : State, u.arb.evalOwed = false ∧ s.LetsGo u k req raise ∧ u.bay k = b ∧
    t = if s.arb.evalOwed || asks then u.evaluate else u

/-- Between `s` and `u` the DRY grant of bay `k` has been revoked: its slot cleared, the compressor told of it as R114 and R116
say, its damper commanded closed and its reheater OFF, the bay in AWAIT with `e` as its new request, and GRANT raised for it
(R28, R68). Nothing else has changed. -/
structure RevokesDry (s u : State) (k : Bay) (e : Entry) : Prop where
  stable  : u.stable = s.stable
  others  : ∀ j, j ≠ k →
    u.bay j = s.bay j ∧ u.air j = s.air j ∧ u.arb.requests.get j = s.arb.requests.get j
  request : u.arb.requests.get k = some e
  ring    : u.arb.ring = s.arb.ring
  row     : u.arb.steamRow = s.arb.steamRow
  steam   : u.steam = s.steam
  slots   : u.arb.slotA = Arbiter.slotWithout k s.arb.slotA ∧ u.arb.slotB = Arbiter.slotWithout k s.arb.slotB
  dry     : { u.dry with air := s.dry.air } = s.dry.onRevoke s.arb.settings u.arb.dryHolders
  bay     : u.bay k = { s.bay k with
    state := .await, waitElapsed := 0, overheatRun := 0, limitReached := false, waitReached := false }
  air     : u.air k = demanded (u.bay k) { (s.air k).closeDamper with reheater := false }
  notices : s.NoticesOf u k (NoticeSet.addBay .grant k)
  draw    : u.arb.committed = u.arb.draw u.dry.comp

/-- Between `s` and `t` the generator has tripped with its cause: the steam unit is off and closed, the STEAM holder, if there is
one, has lost its grant with GRANT raised and waits anew, TRIP is raised on every port, and one evaluation has closed the event (R62,
R68, R69, R108). -/
def TripsTo (s : State) (cause : TripCause) (t : State) : Prop :=
  ∃ u w : State, t = u.evaluate ∧ u.arb.evalOwed = false ∧ w.steam = s.steam.tripped s.arb.settings s.arb.steamRow cause ∧
    (s.arb.steamRow = none → { w with steam := s.steam } = { s with arb := { s.arb with evalOwed := false } }) ∧
    (∀ h, s.arb.steamRow = some h →
      ({ s with steam := w.steam }).LetsGo w h (some (Entry.fresh .steam false)) (NoticeSet.addBay .grant h) ∧
      w.bay h = { s.bay h with
        state := .await, waitElapsed := 0, overheatRun := 0, limitReached := false, waitReached := false }) ∧
    { u with ports := w.ports } = w ∧
    ∀ q, (u.port q).bus = (w.port q).bus ∧ (u.port q).notices = { (w.port q).notices with trip := true }

/-- Between `s` and `t` the entry `e` of bay `k` has been granted in a pass that had passed over `passed` (R51, R55, R64, R66, R86,
R92, R112, R119). -/
structure GrantsInPass (s t : State) (k : Bay) (e : Entry) (passed : List Bay) : Prop where
  stable   : t.stable = s.stable
  owed     : t.arb.evalOwed = s.arb.evalOwed
  requests : ∀ j, t.arb.requests.get j = if j = k then none
    else if j ∈ passed then (s.arb.requests.get j).map fun f => { f with bypass := min 3 (f.bypass + 1) }
    else s.arb.requests.get j
  ring     : t.arb.ring = match s.arb.mode with
    | .rotating => s.arb.ring.filter (· ≠ k) ++ [k]
    | .fixed => s.arb.ring
  bays     : ∀ j, t.bay j = if j = k then { s.bay k with
      state := .active, waitElapsed := 0, overheatRun := 0, limitReached := false, waitReached := false }
    else s.bay j
  others   : ∀ j, j ≠ k → t.air j = s.air j
  notices  : s.NoticesOf t k (NoticeSet.addBay .grant k)
  draw     : t.arb.committed = t.arb.draw t.dry.comp
  steam    : e.resource = .steam →
    t.arb.steamRow = some k ∧ t.arb.slotA = s.arb.slotA ∧ t.arb.slotB = s.arb.slotB ∧
    t.steam = s.steam.startGrant (s.chan boilerChannel).value k ∧ { t.dry with air := s.dry.air } = s.dry ∧
    t.air k = demanded (t.bay k) (s.air k)
  dry      : e.resource = .dry →
    t.arb.steamRow = s.arb.steamRow ∧ t.steam = s.steam ∧
    { t.dry with air := s.dry.air } = s.dry.onGrant s.arb.settings ∧
    (∀ status : Reheat, status = (if e.boost = false then .notAsked
        else if s.arb.draw s.dry.comp + s.addedDraw e + s.arb.settings.reheaterDraw ≤ s.arb.budget then .on
        else .pending) →
      (s.arb.slotA = none → t.arb.slotA = some { bay := k, reheat := status } ∧ t.arb.slotB = s.arb.slotB) ∧
      (s.arb.slotA ≠ none → t.arb.slotA = s.arb.slotA ∧ t.arb.slotB = some { bay := k, reheat := status })) ∧
    ((s.air k).damper ≠ .opened → (s.air k).reheater = false →
      t.air k = demanded (t.bay k) (s.air k).openDamper)

end State

end Sys2Proof.Machine

namespace Sys2Proof.Machine.State

/-! ## The arbiter (R51, R52, R55, R64, R73, R77) -/

/-- The ring is a permutation of the bays (R55). -/
abbrev RingWhole (s : State) : Prop := s.arb.ring.Perm [0, 1, 2, 3]

/-- No event leaves an evaluation owing (R62). -/
abbrev NothingOwed (s : State) : Prop := s.arb.evalOwed = false

/-- Every bypass count is 0 to 3 (R53). -/
abbrev BypassBounded (s : State) : Prop :=
  ∀ k : Bay, ∀ e ∈ s.arb.requests.get k, e.bypass ≤ Params.bypassLimit

/-- A bay is in the request list exactly while it is in AWAIT, and the entry asks for the resource of its current step (R52). -/
abbrev RequestsAwait (s : State) : Prop :=
  ∀ k : Bay, ((s.arb.requests.get k).isSome = true ↔ (s.bay k).state = .await) ∧
    ∀ e ∈ s.arb.requests.get k, (s.bay k).currentKind.bind StepKind.resource = some e.resource

/-- A bay that holds a grant is ACTIVE in a step of the kind that uses it, and no bay holds both DRY slots (R51). -/
abbrev HoldersActive (s : State) : Prop :=
  (∀ k : Bay, s.arb.holdsSteam k = true → (s.bay k).state = .active ∧ (s.bay k).currentKind = some .steam) ∧
  (∀ k : Bay, s.arb.holdsDry k = true → (s.bay k).state = .active ∧ (s.bay k).currentKind = some .dry) ∧
  (∀ a ∈ s.arb.slotA, ∀ b ∈ s.arb.slotB, a.bay ≠ b.bay)

/-- The settings in force are ones that SET_PLANT accepts (R178, R168). -/
abbrev SettingsSound (s : State) : Prop :=
  s.arb.settings.inRange = true ∧ s.arb.settings.marksOrdered = true

/-- The budget is in its range, the committed draw is the sum of its terms and does not exceed the budget (R73, R77, R78). -/
abbrev WithinBudget (s : State) : Prop :=
  1000 ≤ s.arb.budget ∧ s.arb.budget ≤ 7200 ∧ s.arb.committed = s.arb.draw s.dry.comp ∧
    s.arb.committed ≤ s.arb.budget

/-- In UNCOMMISSIONED no grant exists and the compressor is OFF (R49, R50, R73). -/
abbrev NoGrantBefore (s : State) : Prop :=
  s.arb.commissioning = .uncommissioned →
    s.arb.steamRow = none ∧ s.arb.slotA = none ∧ s.arb.slotB = none ∧ s.dry.comp = .off

/-! ## Steam unit (R59, R92, R96, R97, R102, R104, R108) -/

/-- The generator is in a state with a holder exactly while the STEAM row has one (05, Generator States). -/
abbrev SteamFollowsRow (s : State) : Prop :=
  s.arb.steamRow.isSome = true ↔ s.steam.gen = .heating ∨ s.steam.gen = .ready ∨ s.steam.gen = .delivering

/-- The heater is ON only in the regulating states (R96). -/
abbrev HeaterSafe (s : State) : Prop :=
  s.steam.heater = true → s.steam.gen = .heating ∨ s.steam.gen = .ready ∨ s.steam.gen = .delivering

/-- An open valve belongs to the STEAM holder while the generator is DELIVERING (R97). -/
abbrev ValvesSafe (s : State) : Prop :=
  ∀ k : Bay, s.steam.valves.get k = true → s.arb.steamRow = some k ∧ s.steam.gen = .delivering

/-- Warm hold remaining is present exactly in WARM_HOLD, and a TRIPPED generator fills nothing (R102, R108). -/
abbrev SteamTimersSound (s : State) : Prop :=
  (s.steam.warmHold.isSome = true ↔ s.steam.gen = .warmHold) ∧ (s.steam.gen = .tripped → s.steam.fill = none) ∧
    (s.steam.heater = false → s.steam.dryFire = 0)

/-! ## Drying circuit (R112 to R121) -/

/-- The compressor is RUNNING or START_WAIT exactly while a DRY slot is held (06, Compressor). -/
abbrev CompressorFollowsSlots (s : State) : Prop :=
  (s.arb.slotA.isSome = true ∨ s.arb.slotB.isSome = true) ↔ s.dry.comp = .running ∨ s.dry.comp = .startWait

/-- The speed is that of the compressor state and the number of holders (R117). -/
abbrev SpeedSound (s : State) : Prop :=
  s.dry.speed = match s.dry.comp with
    | .off | .startWait => 0
    | .tail => 60
    | .running => if s.arb.dryHolders = 2 then 100 else 60

/-- A damper is OPEN or OPENING exactly while its bay holds a DRY slot (R119). -/
abbrev DampersFollowSlots (s : State) : Prop :=
  ∀ k : Bay, s.arb.holdsDry k = true ↔ (s.air k).damper = .opened ∨ (s.air k).damper = .opening

/-- A reheater is ON only with reheat status ON and the damper OPEN (R121). -/
abbrev ReheatersSafe (s : State) : Prop := ∀ k : Bay, (s.air k).reheater = true → s.reheatReady k = true

/-- Fan and vent flap are as the bay's condition demands (R25, R123, R124). -/
abbrev DemandsMet (s : State) : Prop :=
  ∀ k : Bay, (s.air k).fanLevel = (s.bay k).fanDemand ∧ (s.air k).vent = (s.bay k).ventDemand

/-- The record of a fan commanded off is cleared (R126). -/
abbrev TachosSound (s : State) : Prop := ∀ k : Bay, (s.air k).fanLevel = 0 → (s.air k).tacho = Tacho.cleared

/-! ## Water (R71, R116, R162, R164 to R166) -/

/-- While the condensate full latch is set, no DRY slot is held and the compressor is OFF (R116). -/
abbrev FullStopsDrying (s : State) : Prop :=
  s.water.condensateFull = true → s.arb.slotA = none ∧ s.arb.slotB = none ∧ s.dry.comp = .off

/-- The drain fault latch stands with the pump in FAULT and forces the full latch; a running pump has a start level and a run
elapsed (R162, R164, R166). -/
abbrev DrainSound (s : State) : Prop :=
  (s.water.drainFault = true ↔ s.water.pump = .fault) ∧ (s.water.drainFault = true → s.water.condensateFull = true) ∧
    (s.water.drainStart.isSome = true ↔ s.water.pump = .running) ∧
    (s.water.drainRun.isSome = true ↔ s.water.pump = .running)

/-! ## Bays (02, State Summary) -/

/-- IDLE holds no program; every other state holds a normalized one, with the step index at one of its steps. -/
abbrev ProgramsSound (s : State) : Prop :=
  ∀ k : Bay, ((s.bay k).program = none ↔ (s.bay k).state = .idle) ∧
    ((s.bay k).program = none ↔ (s.bay k).source = none) ∧
    ((s.bay k).program = none ∨ (s.bay k).state = .loaded → (s.bay k).stepIndex = 0) ∧
    ∀ p ∈ (s.bay k).program, p.normalize = p ∧ (s.bay k).stepIndex < p.steps.length ∧ p.steps.length ≤ 12

/-- A bay in AWAIT or ACTIVE has its door closed, one in HELD has it open (R42). -/
abbrev DoorsSound (s : State) : Prop :=
  ∀ k : Bay, ((s.bay k).state = .await ∨ (s.bay k).state = .active → (s.bay k).door = .shut) ∧
    ((s.bay k).state = .held → (s.bay k).door = .opened)

/-- A purge runs in HALTED alone, and a fault is present only when the outcome is HALTED, in HALTED and in the IDLE that a CLEAR
leaves (02, Bay Context; R39, R43). -/
abbrev HaltsSound (s : State) : Prop :=
  ∀ k : Bay, ((s.bay k).purgeRemaining ≠ none → (s.bay k).state = .halted) ∧
    ((s.bay k).fault ≠ none →
      (s.bay k).outcome = .halted ∧ ((s.bay k).state = .halted ∨ (s.bay k).state = .idle)) ∧
    ((s.bay k).overheatRun ≠ 0 → (s.bay k).state = .active) ∧ (s.bay k).overheatRun ≤ 5

/-! ## Estimators, scanner, library and ports -/

/-- M lies in 0 to 8,000,000, the window holds at most eight values, and it is empty exactly in an INVALID estimator (R150 to
R152). -/
abbrev EstimatesSound (s : State) : Prop :=
  ∀ k : Bay, 0 ≤ (s.est.get k).m ∧ (s.est.get k).m ≤ Params.maxM ∧ (s.est.get k).window.length ≤ Params.windowSize ∧
    ((s.est.get k).valid = true ↔ (s.est.get k).window ≠ [])

/-- Every value lies in the range of its class or is the reset value 0, every trim in −63 to 63, every run count in 0 to 2, and
the scan count in 0 to 65535 (07, Scanner State). -/
abbrev ScannerSound (s : State) : Prop :=
  s.scan.count ≤ 65535 ∧ s.scan.phase ≤ Params.scanPeriod ∧
  ∀ n : ChannelNo, s.scan.channels[n].run ≤ 2 ∧
    -Params.trimLimit ≤ s.scan.channels[n].trim ∧ s.scan.channels[n].trim ≤ Params.trimLimit ∧
    scaleCode (classOf n) 0 ≤ s.scan.channels[n].value ∧ s.scan.channels[n].value ≤ scaleCode (classOf n) 4095

/-- The service port is PENDING exactly while a library operation is in progress, and no bay port ever is (R6, R174). -/
abbrev PendingSound (s : State) : Prop :=
  (s.ports.service.phase = .pending ↔ s.library.op ≠ .idle) ∧ ∀ k : Bay, (s.ports.bay.get k).phase ≠ .pending

/-- The record that an operation is writing, if one is. -/
def writtenRecord (s : State) : Option Program :=
  match s.library.op with
  | .writing _ _ p => some p
  | .idle | .erasing _ | .erasingAll _ => none

/-- The erasing of slot `n` has begun in the operation in progress (R8, R10, R11). -/
def erasingBegun (s : State) (n : Fin 16) : Bool :=
  match s.library.op with
  | .idle => false
  | .writing m _ _ | .erasing m => n = m
  | .erasingAll m => n ≤ m

/-- Every VALID slot holds a normalized record of 1 to 12 steps, and so does an operation that writes one (R5, R9); a slot whose
erasing has begun holds none until the operation's completion, so that a reset leaves it EMPTY (R15; log 24). -/
abbrev LibrarySound (s : State) : Prop :=
  (∀ n : Fin 16, ∀ p ∈ s.library.slots[n], p.normalize = p ∧ 1 ≤ p.steps.length ∧ p.steps.length ≤ 12) ∧
  (∀ p ∈ s.writtenRecord, p.normalize = p ∧ 1 ≤ p.steps.length ∧ p.steps.length ≤ 12) ∧
  ∀ n : Fin 16, s.erasingBegun n = true → s.library.slots[n] = none

/-! ## Resets and records -/

/-- The command resets the part in this state with these pins: the power-on reset, RESETN, or RESET_PART that the service port
takes (R179). -/
def ResetWith (s : State) (i : Instr) (pins : Pins) : Prop :=
  (∃ low, i = .powerOnReset pins low) ∨ i = .resetnReset pins ∨ i = .resetPart .service pins ∧ s.Accepts .service

/-- The command resets the part in this state (R179). -/
def ResetBy (s : State) (i : Instr) : Prop := ∃ pins, s.ResetWith i pins

/-! ## Nothing to settle -/

/-- No expiry, debounced event or scan start waits to be taken (log 3). -/
abbrev NothingDue (s : State) : Prop :=
  s.steam.fillDue = false ∧ s.steam.dryFireDue = false ∧ s.steam.dwellDue = false ∧ s.steam.warmHoldDue = false ∧
  s.dry.minOffDue = false ∧ s.dry.minRunDue = false ∧ s.water.checkDue = false ∧ s.scan.startDue = false ∧
  s.inputs.low.complete = false ∧ s.inputs.high.complete = false ∧
  (∀ k : Bay, (s.inputs.door.get k).complete = false) ∧
  (∀ k : Bay, (s.air k).travelDue = false ∧ (s.air k).silenceDue = false ∧ (s.air k).spinUpDue = false ∧
    (s.air k).reportDue = false) ∧
  (∀ k : Bay, (s.bay k).limitDue = false ∧ (s.bay k).waitDue = false ∧ (s.bay k).purgeDue = false) ∧
  ∀ k : Bay, ∀ e ∈ s.arb.requests.get k, e.ageMark ≠ .reached

/-- The rows that settle what the last tick has brought, in the order that log 3 chooses: the expiries of the plant's timers, of
the bays' and of the entries, the progress check, and each input whose debounce is complete. -/
def expiryRows (s : State) : List Instr :=
  let each (row : Bay → Instr) : List Instr := [row 0, row 1, row 2, row 3]
  let door (k : Bay) : List Instr :=
    if (s.inputs.door.get k).complete then
      [if (s.inputs.door.get k).level then Instr.doorOpening k else Instr.doorClosing k]
    else []
  let low : List Instr :=
    if s.inputs.low.complete then [if s.inputs.low.level then Instr.lowProbeWet else Instr.lowProbeDry] else []
  let high : List Instr :=
    if s.inputs.high.complete then [if s.inputs.high.level then Instr.highProbeWet else Instr.highProbeDry] else []
  List.flatten
    [[Instr.fillTimeout, Instr.dryFire, Instr.warmHoldExpiry, Instr.dwellElapsed, Instr.minOffExpiry, Instr.minRunExpiry],
     each Instr.damperTravelEnd, each Instr.silenceTimeout, each Instr.spinUpElapsed, each Instr.stepEndsOnLimit,
     each Instr.waitTimeout, each Instr.purgeEnd, each Instr.blockingByAge, [Instr.drainProgressCheck],
     door 0, door 1, door 2, door 3, low, high]

/-- The rows, one after another, take the part from `s` to `t`. -/
def RunsTo (s : State) : List Instr → State → Prop
  | [], t => t = s
  | i :: rest, t => ∃ u, Machine.exec i s = .next u ∧ RunsTo u rest t

/-! ## The laws together -/

/-- A bay has at most one of an entry in the list, the STEAM row, slot A and slot B (R51, R52). -/
abbrev OneClaim (s : State) : Prop :=
  ∀ k : Bay, (s.arb.requests.get k).isSome.toNat + (s.arb.holdsSteam k).toNat +
    (Arbiter.slotHeldBy k s.arb.slotA).toNat + (Arbiter.slotHeldBy k s.arb.slotB).toNat ≤ 1

/-- The compressor waits in START_WAIT for a holder alone (R112, R114). -/
abbrev StartWaitHeld (s : State) : Prop :=
  s.dry.comp = .startWait → s.arb.slotA.isSome = true ∨ s.arb.slotB.isSome = true

/-- The laws under which the committed draw stays within the budget (R77), whatever the bays do. -/
structure PowerLawful (s : State) : Prop where
  ring     : s.RingWhole
  claims   : s.OneClaim
  settings : s.SettingsSound
  before   : s.NoGrantBefore
  waits    : s.StartWaitHeld
  budget   : s.WithinBudget

/-- The laws under which the request list and the grant table agree with the bays (R51, R52). -/
structure BaysLawful (s : State) : Prop where
  requests : s.RequestsAwait
  holders  : s.HoldersActive
  programs : s.ProgramsSound
  doors    : s.DoorsSound
  library  : s.LibrarySound

/-- The plant laws: who holds what, what draws power, and what the plant lines then do. -/
structure PlantLawful (s : State) : Prop where
  ring       : s.RingWhole
  owed       : s.NothingOwed
  bypass     : s.BypassBounded
  requests   : s.RequestsAwait
  holders    : s.HoldersActive
  settings   : s.SettingsSound
  budget     : s.WithinBudget
  before     : s.NoGrantBefore
  steam      : s.SteamFollowsRow
  heater     : s.HeaterSafe
  valves     : s.ValvesSafe
  steamTimers : s.SteamTimersSound
  compressor : s.CompressorFollowsSlots
  speed      : s.SpeedSound
  dampers    : s.DampersFollowSlots
  reheaters  : s.ReheatersSafe
  demands    : s.DemandsMet
  tachos     : s.TachosSound
  full       : s.FullStopsDrying
  drain      : s.DrainSound
  programs   : s.ProgramsSound
  doors      : s.DoorsSound
  halts      : s.HaltsSound
  library    : s.LibrarySound

end Sys2Proof.Machine.State
end

