-- ==== Sys2Proof/WellFormed.lean ====
section
/-!
DEFINITION. Which terms of `Instr` are rows of the table: a write goes under the row of its command when the frame's length
suits it, and under FRAME_REFUSED when a check of the frame itself fails. A term that is not well formed still has its meaning.
-/

namespace Sys2Proof

/-- The bytes are a frame that the port refuses (R171, R172). -/
def refusedFrame (p : Port) (written : List Byte) : Bool :=
  decide (written ≠ []) &&
    (Machine.refuseFrame p (written.take Machine.Params.rxBytes)
      (decide (Machine.Params.rxBytes < written.length))).isSome

/-- The parameters fit a frame (R172). -/
def fitsFrame (params : List Byte) : Bool := decide (params.length ≤ Machine.Params.maxL)

/-- The checks of a term. -/
def Instr.wellFormed : Instr → Bool
  | .frameRefused p written => refusedFrame p written
  | .loadProgram o water record => fitsFrame (o.operand ++ (Machine.wordBytes water ++ record))
  | .writeRecipe _ slot record => fitsFrame (slot :: record)
  | .setPlant _ record => decide (record.length = 40)
  | .powerOnReset _ _ | .resetnReset _ | .loadRecipe _ _ _ | .start _ | .abort _ | .skipStep _ | .clear _ | .readBay _
  | .readPlant _ | .readRecipe _ _ | .readNotices _ | .setNoticeMask _ _ | .commission _ | .setBudget _ _
  | .setArbitration _ _ | .promote _ _ | .mask _ _ | .unmask _ _ | .clearTrip _ | .eraseRecipe _ _ | .eraseLibrary _
  | .setTrim _ _ _ | .readChannels _ | .resetPart _ _ | .libraryPhaseEnd | .libraryCompletion | .tick _ | .scanStart
  | .conversionEnd _ | .scanComplete _ | .waitTimeout _ | .stepEndsOnLimit _ | .blockingByAge _ | .doorOpening _
  | .doorClosing _ | .purgeEnd _ | .lowProbeDry | .lowProbeWet | .highProbeWet | .highProbeDry | .fillTimeout
  | .dryFire | .dwellElapsed | .warmHoldExpiry | .minOffExpiry | .minRunExpiry | .damperTravelEnd _
  | .tachometerEdge _ _ | .silenceTimeout _ | .spinUpElapsed _ | .drainProgressCheck | .writeStart _ _
  | .emptyWrite _ => true

end Sys2Proof
end

