-- ==== Sys2Proof/Certificates/Slice0/Obligations.lean ====
section
/-!
DEFINITION. The statements for the provers. Each is closed; `exec` and `step` are the model's.
-/

open Sys2Proof Sys2Proof.Machine

/-! ## Steps and resets -/

/-- A step takes the command at the front of the queue, and nothing else of the state is touched before its meaning runs; with no
command waiting the part idles (the model's choice, log 1). -/
def Obligations.StepTakesTheFrontCommand : Prop :=
  ∀ (c : Instr) (s : State), step { s with pending := c :: s.pending } = exec c s ∧
    (s.pending = [] → step s = .next s)

/-- No command faults or is refused (the model's reading, log 22 and log 26), and none changes the queue behind it, resets included
(the model's choice, log 1). -/
def Obligations.EveryCommandCompletesAndKeepsTheQueue : Prop :=
  ∀ (i : Instr) (s : State), ∃ t, exec i s = .next t ∧ t.pending = s.pending

/-- The three resets complete: each leaves the part in one reset state, which depends on the cause, on what the reset finds at the
pins and on the library's slots alone; a port whose master was clocking a read gives it 0xFF from then on, and one whose master was
writing neither acknowledges nor takes another byte of that write; RESET_PART leaves its OK in the service port's reply buffer, and is
not permitted on a bay port (R175, R179). That the waiting commands wait on is the
model's choice (log 1), and so is that a slot stands as it is because its erasing has emptied it already (log 24). -/
def Obligations.EachResetLeavesTheResetStateAndItsCause : Prop :=
  ∀ (pins : Pins) (s : State),
    exec (.powerOnReset pins false) s =
      .next { State.afterReset .powerOn pins s.library.slots with pending := s.pending } ∧
    exec (.powerOnReset pins true) s =
      .next { State.afterReset .pin pins s.library.slots with pending := s.pending } ∧
    exec (.resetnReset pins) s = .next { State.afterReset .pin pins s.library.slots with pending := s.pending } ∧
    (s.Accepts .service → exec (.resetPart .service pins) s =
      .next { State.afterReset .command pins s.library.slots with
        pending := s.pending
        ports :=
          { bay := pins.bayRead.map PortRec.afterReset
            service := { PortRec.afterReset false with
              phase := .replyReady, reply := some { status := .ok, data := [] } } } }) ∧
    (∀ k : Bay, s.Accepts (.bay k) → exec (.resetPart (.bay k) pins) s = .next (s.reply (.bay k) .notPermitted)) ∧
    (∀ reading : Bool, PortRec.afterReset reading = ⟨.idle, [], false, none, NoticeSet.empty, BitVec.allOnes 10, reading⟩ ∧
      (PortRec.afterReset reading).cutReadByte = (if reading then some 0xFF else none) ∧
      (PortRec.afterReset reading).acknowledgesByte = false ∧
      ∀ b : Byte, (PortRec.afterReset reading).storeByte b = PortRec.afterReset reading) ∧
    ∀ (cause : ResetCause) (slots : Vector (Option Program) 16), (State.afterReset cause pins slots).resetCause = cause

/-- R48: what every kind of reset leaves in the arbiter. -/
def Obligations.AResetLeavesTheArbiterAtItsResetValues : Prop :=
  ∀ (i : Instr) (s : State), s.ResetBy i → ∃ t, exec i s = .next t ∧
    t.arb.commissioning = .uncommissioned ∧ t.arb.steamRow = none ∧ t.arb.slotA = none ∧ t.arb.slotB = none ∧
    (∀ k : Bay, t.arb.requests.get k = none) ∧ t.arb.ring = [0, 1, 2, 3] ∧ t.arb.mode = .rotating ∧
    (∀ k : Bay, t.arb.masks.get k = false) ∧ t.arb.budget = 3000 ∧
    t.arb.settings =
      { baseReserve := 250, steamDraw := 1800, compressorDraw := 700, reheaterDraw := 400, dwell := 8, warmHold := 120,
        minOff := 180, minRun := 120, waitTimeout := 1800, starvationAge := 300, duct := ⟨120, 120, 120, 120⟩,
        reservoirLow := 150, reservoirResume := 200, condensateFull := 900, condensateResume := 800,
        drainFitted := false, drainOn := 700, drainOff := 300 } ∧
    t.arb.committed = t.arb.settings.baseReserve ∧ (∀ k : Bay, (t.bay k).state = .idle) ∧ t.steam.gen = .off ∧
    t.dry.comp = .off ∧ t.arb.evalOwed = false

/-- What every kind of reset leaves in the bays, the estimators, the drying circuit, the steam unit, the scanner, the water
inventory, the library and the ports, with the doors and probes as sampled (R16 to R18, R91, R103, R111, R130, R141, R158, R175,
R179). That a slot stands as it is, the erasing having emptied it already, is the model's choice (log 24). -/
def Obligations.AResetLeavesTheBlocksAtTheirResetValues : Prop :=
  ∀ (i : Instr) (pins : Pins) (s : State), s.ResetWith i pins → ∃ t, exec i s = .next t ∧
    (∀ k : Bay,
      (t.bay k).state = .idle ∧ (t.bay k).program = none ∧ (t.bay k).source = none ∧ (t.bay k).stepIndex = 0 ∧
      (t.bay k).stepRemaining = 0 ∧ (t.bay k).waitElapsed = 0 ∧ t.arb.grantHeld k = .none ∧ (t.bay k).outcome = .none ∧
      (t.bay k).fault = none ∧ (t.bay k).underdry = false ∧ (t.bay k).overheatRun = 0 ∧
      (t.bay k).purgeRemaining = none ∧ (t.bay k).door = (if pins.lines.doorHigh.get k then .opened else .shut) ∧
      t.inputs.door.get k = { level := pins.lines.doorHigh.get k, run := 0 } ∧
      t.est.get k = { m := 0, window := [], valid := false } ∧
      t.air k = { damper := .closed, travel := 0, reheater := false, vent := false, fanLevel := 0,
                  tacho := { reference := none, period := none, silence := 0, spinUp := none, stalled := false }
                  reportDue := false }) ∧
    t.dry.comp = .off ∧ t.dry.minOff = 18000 ∧ t.dry.minRun = none ∧ t.dry.speed = 0 ∧ t.counter = 0 ∧
    t.steam.gen = .off ∧ t.steam.heater = false ∧ (∀ k : Bay, t.steam.valves.get k = false) ∧
    t.steam.dwellBay = none ∧ t.steam.dwellRemaining = 0 ∧ t.steam.warmHold = none ∧ t.steam.dryFire = 0 ∧ t.steam.tripCause = .none ∧
    t.steam.lowProbe = (if pins.lines.lowWet then .wet else .dry) ∧
    t.steam.highProbe = (if pins.lines.highWet then .wet else .dry) ∧
    t.steam.fill = (if t.steam.lowProbe = .dry then some 0 else none) ∧
    t.inputs.low = { level := pins.lines.lowWet, run := 0 } ∧ t.inputs.high = { level := pins.lines.highWet, run := 0 } ∧
    t.addrHigh = pins.addrHigh ∧
    t.scan.phase = 0 ∧ t.scan.converting = none ∧ t.scan.count = 0 ∧
    (∀ n : ChannelNo, (t.chan n).trim = 0 ∧ (t.chan n).raw = 0 ∧ (t.chan n).value = 0 ∧ (t.chan n).faulted = false ∧
      (t.chan n).run = 0 ∧ (t.chan n).latched = 0 ∧ (t.chan n).inFlight = none) ∧
    t.water = { reservoirLevel := 0, reservoirLow := false, condensateLevel := 0, condensateFull := false, pump := .off,
                drainStart := none, drainRun := none, drainFault := false } ∧
    (∀ k : Bay, t.ports.bay.get k =
      ⟨.idle, [], false, none, NoticeSet.empty, BitVec.allOnes 10, pins.bayRead.get k⟩) ∧
    t.ports.service.notices = NoticeSet.empty ∧ t.ports.service.mask = BitVec.allOnes 10 ∧
    t.library.op = .idle ∧ (∀ n : Fin 16, t.library.slots[n] = s.library.slots[n]) ∧
    (s.LibrarySound → t.PlantLawful ∧ t.PowerLawful ∧ t.BaysLawful) ∧ t.EstimatesSound ∧ t.ScannerSound ∧ t.PendingSound

/-! ## Ports -/

/-- The checks of R172 in their order, on what the receive buffer holds, with the codes, permissions and lengths of the command
table (R176). -/
def Obligations.AFrameIsCheckedInTheOrderOfTheRule : Prop :=
  ∀ (p : Port) (rx : List Byte) (overrun : Bool),
    (∀ (b : Byte) (c : Command), Command.ofCode b = some c ↔ (b.toNat, c) ∈
      [(0x10, Command.loadRecipe), (0x11, .loadProgram), (0x12, .start), (0x13, .abort), (0x14, .skipStep), (0x15, .clear),
       (0x16, .readBay), (0x20, .readPlant), (0x21, .readRecipe), (0x22, .readNotices), (0x23, .setNoticeMask),
       (0x30, .setPlant), (0x31, .commission), (0x32, .setBudget), (0x33, .setArbitration), (0x34, .promote),
       (0x35, .mask), (0x36, .unmask), (0x37, .clearTrip), (0x40, .writeRecipe), (0x41, .eraseRecipe),
       (0x42, .eraseLibrary), (0x50, .setTrim), (0x51, .readChannels), (0x5F, .resetPart)]) ∧
    (∀ c : Command, c.permitted .service = true ∧ ∀ k : Bay, (c.permitted (.bay k) = true ↔
      c ∈ [.loadRecipe, .loadProgram, .start, .abort, .skipStep, .clear, .readBay, .readNotices, .setNoticeMask,
        .readPlant, .readRecipe])) ∧
    (∀ c : Command, c.bayBytes p =
      if p = .service ∧ c ∈ [.loadRecipe, .loadProgram, .start, .abort, .skipStep, .clear, .readBay] then 1 else 0) ∧
    (∀ (c : Command) (n l : Nat), (c, n) ∈
        [(Command.loadRecipe, 3), (.start, 0), (.abort, 0), (.skipStep, 0), (.clear, 0), (.readBay, 0), (.readPlant, 0),
         (.readRecipe, 1), (.readNotices, 0), (.setNoticeMask, 2), (.setPlant, 40), (.commission, 0), (.setBudget, 2),
         (.setArbitration, 1), (.promote, 1), (.mask, 1), (.unmask, 1), (.clearTrip, 0), (.eraseRecipe, 1),
         (.eraseLibrary, 0), (.setTrim, 2), (.readChannels, 0), (.resetPart, 0)] →
      (c.lengthSuits p l = true ↔ l = c.bayBytes p + n)) ∧
    (∀ l : Nat, (Command.loadProgram.lengthSuits p l = true ↔ Command.loadProgram.bayBytes p + 2 ≤ l) ∧
      (Command.writeRecipe.lengthSuits p l = true ↔ 1 ≤ l)) ∧
    (overrun = true ∨ rx.length < 2 → refuseFrame p rx overrun = some .badLength) ∧
    ∀ (code len : Byte) (params : List Byte), rx = code :: len :: params → overrun = false →
      (108 < len.toNat ∨ params.length ≠ len.toNat → refuseFrame p rx overrun = some .badLength) ∧
      (len.toNat ≤ 108 → params.length = len.toNat →
        (Command.ofCode code = none → refuseFrame p rx overrun = some .unknownCommand) ∧
        ∀ c : Command, Command.ofCode code = some c →
          (c.permitted p = false → refuseFrame p rx overrun = some .notPermitted) ∧
          (c.permitted p = true →
            (c.lengthSuits p len.toNat = false → refuseFrame p rx overrun = some .badLength) ∧
            (c.lengthSuits p len.toNat = true →
              (c.bayBytes p = 1 → 3 < (params.getD 0 0).toNat → refuseFrame p rx overrun = some .badValue) ∧
              ((c.bayBytes p = 1 → (params.getD 0 0).toNat ≤ 3) →
                (c = .loadProgram → parseProgram (params.drop (c.bayBytes p + 2)) = none →
                  refuseFrame p rx overrun = some .badValue) ∧
                ((c = .loadProgram → parseProgram (params.drop (c.bayBytes p + 2)) ≠ none) →
                  refuseFrame p rx overrun = none)))))

/-- FRAME_REFUSED completes: the status of the check that failed stands in the port's reply, and nothing else has changed
(R172). A reply takes the place of the one before and leaves its port REPLY_READY with an empty receive buffer; an event at one port
touches no other and nothing but the ports (R171, R173). -/
def Obligations.ARefusedFrameChangesNothingButItsReply : Prop :=
  (∀ (p : Port) (written : List Byte) (s : State), s.Accepts p → refusedFrame p written = true →
    ∃ st, refuseFrame p (written.take 112) (decide (112 < written.length)) = some st ∧
      exec (.frameRefused p written) s = .next (s.reply p st)) ∧
  (∀ (p : Port) (st : Status) (data : List Byte) (s : State), s.reply p st = s.mapPort p (fun r =>
      { r with phase := .replyReady, rx := [], overrun := false, reply := some { status := st, data := [] } }) ∧
    s.replyWith p data = s.mapPort p fun r =>
      { r with phase := .replyReady, rx := [], overrun := false, reply := some { status := .ok, data := data } }) ∧
  ∀ (p q : Port) (f : PortRec → PortRec) (s : State),
    (s.mapPort p f).port q = (if q = p then f (s.port q) else s.port q) ∧ { s.mapPort p f with ports := s.ports } = s

/-- A PENDING port acknowledges no write: none of the rows that are writes on it changes anything (R170, R174). -/
def Obligations.APendingPortTakesNothing : Prop :=
  ∀ (i : Instr) (p : Port) (s : State), i.port? = some p → (s.port p).phase = .pending → exec i s = .next s

/-- WRITE_START and EMPTY_WRITE complete: at the part's address an accepting port goes to RECEIVING with an empty receive buffer and
keeps its reply, another address is not acknowledged, and a write with no data byte, ended by either row, takes the port back to the
state before it; of the data bytes of a write the first 112 are acknowledged and stored, and any more mark the frame overrun; a port
with no write in progress acknowledges and takes no byte (R170, R171). -/
def Obligations.AWriteStartAndAnEmptyWriteMoveThePort : Prop :=
  (∀ (p : Port) (a : BitVec 7) (s : State), s.Accepts p →
    (a ≠ (if s.addrHigh then 0x5B else 0x5A) →
      ((s.port p).phase = .idle ∨ (s.port p).phase = .replyReady → exec (.writeStart p a) s = .next s) ∧
      ∀ b, (s.port p).phase = .receiving b → exec (.writeStart p a) s = .next (s.mapPort p fun r =>
        { r with phase := if b then .replyReady else .idle, rx := [], overrun := false })) ∧
    (a = (if s.addrHigh then 0x5B else 0x5A) → ∃ b, exec (.writeStart p a) s =
      .next (s.mapPort p fun r => { r with phase := .receiving b, rx := [], overrun := false }) ∧
      ((s.port p).phase = .idle → b = false) ∧ ((s.port p).phase = .replyReady → b = true) ∧
      ∀ c, (s.port p).phase = .receiving c → b = c)) ∧
  (∀ (p : Port) (b : Bool) (s : State), (s.port p).phase = .receiving b →
    exec (.emptyWrite p) s = .next (s.mapPort p fun r =>
      { r with phase := if b then .replyReady else .idle, rx := [], overrun := false })) ∧
  ∀ (r : PortRec) (b : Byte) (written : List Byte),
    (r.acknowledgesByte = true ↔ (∃ c, r.phase = .receiving c) ∧ r.rx.length < 112) ∧
    ((∃ c, r.phase = .receiving c) →
      r.storeByte b = if r.rx.length < 112 then { r with rx := r.rx ++ [b] } else { r with overrun := true }) ∧
    ((∀ c, r.phase ≠ .receiving c) → r.storeByte b = r) ∧
    r.receive written = written.foldl PortRec.storeByte { r.startWrite with rx := [], overrun := false } ∧
    (r.phase ≠ .pending → r.receive written = { r with
      phase := .receiving (decide (r.phase = .replyReady ∨ r.phase = .receiving true)), rx := written.take 112
      overrun := decide (112 < written.length) })

/-- A service command in a frame that fits is refused on every bay port with NOT_PERMITTED, and its block is not consulted
(R176, R7, R109, R139, R140). -/
def Obligations.ABayPortRefusesEveryServiceCommand : Prop :=
  ∀ (k : Bay) (i : Instr) (s : State), s.Accepts (.bay k) →
    (i ∈ [.commission (.bay k), .clearTrip (.bay k), .eraseLibrary (.bay k), .readChannels (.bay k)] ∨
      (∃ w, i = .setBudget (.bay k) w) ∨
      (∃ b, i ∈ [.setArbitration (.bay k) b, .promote (.bay k) b, .mask (.bay k) b, .unmask (.bay k) b,
        .eraseRecipe (.bay k) b]) ∨
      (∃ b c, i = .setTrim (.bay k) b c) ∨ (∃ pins, i = .resetPart (.bay k) pins) ∨
      (∃ record : List Byte, record.length = 40 ∧ i = .setPlant (.bay k) record) ∨
      ∃ (slot : Byte) (record : List Byte), record.length ≤ 107 ∧ i = .writeRecipe (.bay k) slot record) →
    exec i s = .next (s.reply (.bay k) .notPermitted)

/-- The three reports complete: OK and the report, of 35, 30 and 116 bytes, and nothing else changes; every field stands at its
offset, most significant byte first, in the codes of Wire Layouts (R17, R140, R183). With them the other views of State: a read gives
the reply's status, length and data and 0x00 past its end, at an address acknowledged in every state (R170, R173), and the output lines
are those of the valves, dampers, reheaters, flaps, fans, heater, pumps and compressor, and the attention lines (R97, R104, R117,
R120, R121, R123, R124, R181). -/
def Obligations.TheReportsAnswerAtOnceInTheirLengths : Prop :=
  (∀ s : State,
    (∀ o : Origin, s.Accepts o.port → o.inRange = true →
      exec (.readBay o) s = .next (s.replyWith o.port (s.bayReport o.bay)) ∧ (s.bayReport o.bay).length = 35) ∧
    (∀ p : Port, s.Accepts p → exec (.readPlant p) s = .next (s.replyWith p s.plantReport) ∧
      (s.RingWhole → s.plantReport.length = 30)) ∧
    (s.Accepts .service → exec (.readChannels .service) s = .next (s.replyWith .service s.channelReport) ∧
      s.channelReport.length = 116)) ∧
  (∀ (s : State) (k : Bay) (r : List Byte), r = s.bayReport k →
    r.getD 0 0 = (s.bay k).state.code ∧ r.getD 1 0 = sourceCode (s.bay k).source ∧
    (r.getD 2 0).toNat = (s.bay k).stepIndex % 256 ∧ (r.getD 3 0).toNat = (s.bay k).stepCount % 256 ∧
    fieldAt r 4 = ((s.bay k).stepRemaining + 99) / 100 % 65536 ∧ fieldAt r 6 = (s.bay k).waitElapsed / 100 % 65536 ∧
    r.getD 8 0 = (s.arb.grantHeld k).code ∧ r.getD 9 0 = (s.bay k).outcome.code ∧ r.getD 10 0 = faultCode (s.bay k).fault ∧
    (r.getD 11 0).toNat = (s.bay k).underdry.toNat + 2 * (decide ((s.bay k).door = .opened)).toNat +
      4 * (s.air k).vent.toNat + 8 * (s.air k).reheater.toNat + 16 * (s.est.get k).valid.toNat ∧
    (r.getD 12 0).toNat = (s.bay k).overheatRun % 256 ∧
    fieldAt r 13 = ((s.bay k).purgeRemaining.getD 0 + 99) / 100 % 65536 ∧ r.getD 15 0 = (s.air k).damper.code ∧
    (r.getD 16 0).toNat = (s.air k).fanLevel % 256 ∧ fieldAt r 17 = (s.air k).tacho.period.getD 0 % 65536 ∧
    fieldAt r 19 = ((s.est.get k).m / 1000).toNat % 65536 ∧ (r.getD 21 0).toNat = (s.est.get k).window.length % 256 ∧
    ((fieldAt r 22 * 65536 + fieldAt r 24 : Nat) : Int) = (s.est.get k).window.sum % 4294967296 ∧
    (∀ j : Fin 4, (fieldAt r (26 + 2 * j.val) : Int) = (s.chan (bayChannel k j)).value % 65536) ∧
    (r.getD 34 0).toNat = (s.chan (bayChannel k 0)).faulted.toNat + 2 * (s.chan (bayChannel k 1)).faulted.toNat +
      4 * (s.chan (bayChannel k 2)).faulted.toNat + 8 * (s.chan (bayChannel k 3)).faulted.toNat) ∧
  (∀ (s : State) (r : List Byte), r = s.plantReport →
    r.getD 0 0 = s.arb.commissioning.code ∧ r.getD 1 0 = s.resetCause.code ∧ fieldAt r 2 = s.arb.budget % 65536 ∧
    fieldAt r 4 = s.arb.committed % 65536 ∧ r.getD 6 0 = holderCode s.arb.steamRow ∧
    [r.getD 7 0, r.getD 8 0] = slotBytes s.arb.slotA ∧ [r.getD 9 0, r.getD 10 0] = slotBytes s.arb.slotB ∧
    r.getD 11 0 = s.steam.gen.code ∧ r.getD 12 0 = s.steam.tripCause.code ∧ r.getD 13 0 = s.dry.comp.code ∧
    (fieldAt r 14 : Int) = (s.chan boilerChannel).value % 65536 ∧ (fieldAt r 16 : Int) = s.water.reservoirLevel % 65536 ∧
    (r.getD 18 0).toNat = s.water.reservoirLow.toNat ∧ (fieldAt r 19 : Int) = s.water.condensateLevel % 65536 ∧
    (r.getD 21 0).toNat = s.water.condensateFull.toNat ∧ r.getD 22 0 = s.water.pump.code ∧
    (r.getD 23 0).toNat = s.water.drainFault.toNat ∧
    (s.RingWhole → (∀ i : Fin 4, s.arb.ring[i.val]?.map (·.val) = some (r.getD (24 + i.val) 0).toNat) ∧
      r.getD 28 0 = s.arb.mode.code ∧ (r.getD 29 0).toNat = (s.arb.masks.get 0).toNat + 2 * (s.arb.masks.get 1).toNat +
        4 * (s.arb.masks.get 2).toNat + 8 * (s.arb.masks.get 3).toNat)) ∧
  (∀ (s : State) (r : List Byte), r = s.channelReport →
    fieldAt r 0 = s.scan.count % 65536 ∧ ∀ n : ChannelNo,
      fieldAt r (2 + 6 * n.val) = (s.chan n).raw.toNat ∧ (fieldAt r (4 + 6 * n.val) : Int) = (s.chan n).value % 65536 ∧
      (r.getD (6 + 6 * n.val) 0).toNat = (s.chan n).faulted.toNat ∧
      ((r.getD (7 + 6 * n.val) 0).toNat : Int) = (s.chan n).trim % 256) ∧
  ([BayState.idle, .loaded, .await, .active, .held, .finished, .halted].map (·.code.toNat) = [0, 1, 2, 3, 4, 5, 6] ∧
    [GrantHeld.none, .steam, .dry, .dryReheat, .dryPending].map (·.code.toNat) = [0, 1, 2, 3, 4] ∧
    [Ending.none, .complete, .underdry, .aborted, .halted].map (·.code.toNat) = [0, 1, 2, 3, 4] ∧
    [none, some BayFault.overheat, some .fanStall, some .sensorFault, some .waitTimeout].map
      (fun f => (faultCode f).toNat) = [0, 1, 2, 3, 4] ∧
    [Damper.closed, .opening, .opened, .closing].map (·.code.toNat) = [0, 1, 2, 3] ∧
    [Reheat.notAsked, .on, .pending].map (·.code.toNat) = [0, 1, 2] ∧
    [Commissioning.uncommissioned, .commissioned].map (·.code.toNat) = [0, 1] ∧
    [ResetCause.powerOn, .pin, .command].map (·.code.toNat) = [0, 1, 2] ∧
    [GenState.off, .heating, .ready, .delivering, .warmHold, .tripped].map (·.code.toNat) = [0, 1, 2, 3, 4, 5] ∧
    [TripCause.none, .overtemp, .dryFire, .fillTimeout, .sensor].map (·.code.toNat) = [0, 1, 2, 3, 4] ∧
    [CompState.off, .startWait, .running, .tail].map (·.code.toNat) = [0, 1, 2, 3] ∧
    [PumpState.off, .running, .fault].map (·.code.toNat) = [0, 1, 2] ∧
    [ArbMode.rotating, .fixed].map (·.code.toNat) = [0, 1] ∧
    (∀ n : Fin 16, (sourceCode (some (.slot n))).toNat = n.val) ∧ sourceCode (some .inlined) = 0xFE ∧
    sourceCode none = 0xFF ∧ (∀ k : Bay, (holderCode (some k)).toNat = k.val) ∧ holderCode none = 0xFF ∧
    slotBytes none = [0xFF, 0xFF] ∧
    (∀ (k : Bay) (st : Reheat), slotBytes (some { bay := k, reheat := st }) = [holderCode (some k), st.code]) ∧
    [Status.ok, .pending, .unknownCommand, .badLength, .badValue, .wrongState, .locked, .slotEmpty, .slotBusy,
      .notPermitted].map (·.code.toNat) = [0, 1, 2, 3, 4, 5, 6, 7, 8, 9] ∧
    (boilerChannel.val, reservoirChannel.val, condensateChannel.val) = (16, 17, 18) ∧
    ∀ (k : Bay) (j : Fin 4), (bayChannel k j).val = 4 * k.val + j.val) ∧
  (∀ (a : Arbiter) (k : Bay), a.grantHeld k =
    if a.steamRow = some k then .steam
    else match a.reheatOf k with
      | none => .none
      | some .notAsked => .dry
      | some .on => .dryReheat
      | some .pending => .dryPending) ∧
  (∀ (r : PortRec) (n : Nat), (r.reply = none → r.readByte n = 0) ∧
    ∀ a : Reply, r.reply = some a → r.readByte 0 = a.status.code ∧ (r.readByte 1).toNat = a.data.length % 256 ∧
      r.readByte (n + 2) = a.data.getD n 0) ∧
  (∀ (s : State) (a : BitVec 7), s.acknowledgesRead a = true ↔ a = if s.addrHigh then 0x5B else 0x5A) ∧
  ∀ (s : State) (o : Outputs), o = s.outputs →
    o.heater = s.steam.heater ∧ (o.fillPump = true ↔ s.steam.fill ≠ none) ∧
    (o.compressorEnable = true ↔ s.dry.comp = .running ∨ s.dry.comp = .tail) ∧ o.compressorSpeed = s.dry.speed * 10 ∧
    (o.drainPump = true ↔ s.water.pump = .running) ∧ o.attention = (s.port .service).attentionLow ∧
    ∀ k : Bay, o.bay.get k =
      { steamValve := s.steam.valves.get k
        damperOpen := decide ((s.air k).damper = .opening)
        damperClose := decide ((s.air k).damper = .closing)
        reheater := (s.air k).reheater
        ventFlap := (s.air k).vent
        fanCycles := ((s.air k).fanLevel * 320 + 7) / 15
        attention := (s.port (.bay k)).attentionLow }

/-- READ_NOTICES and SET_NOTICE_MASK complete: the enabled part of the port's set is reported in 7 bytes and removed with its bay
sets, the disabled part stays and the attention line is released; a new mask replaces the old whole, its six unused positions
ignored, and keeps the set (R181, R182). A raised bay kind reaches its bay's port and the service port, a plant kind every port, but
LIBRARY the service port alone; a raise adds its bay to the bay set of its kind, or its plant kind, and leaves the rest (R180). The
attention line is low exactly while a kind that is present is enabled (R181). -/
def Obligations.ThePortCommandsReadAndMaskNotices : Prop :=
  (∀ (p : Port) (s : State), s.Accepts p →
    ∃ t, exec (.readNotices p) s = .next t ∧
      t = s.mapPort p (fun r => { r with
        phase := .replyReady
        rx := []
        overrun := false
        reply := some { status := .ok, data := (r.notices.select r.mask).report }
        notices := r.notices.select (~~~r.mask) }) ∧
      (((s.port p).notices.select (s.port p).mask).report).length = 7 ∧ (t.port p).attentionLow = false ∧
      ((s.port p).notices.select (s.port p).mask).kinds = (s.port p).notices.kinds &&& (s.port p).mask ∧
      (t.port p).notices.kinds = (s.port p).notices.kinds &&& ~~~(s.port p).mask) ∧
  (∀ s : State, (∀ (n : BayNotice) (k : Bay), s.NoticesOf (s.raiseBay n k) k (NoticeSet.addBay n k) ∧
      (∀ q, ((s.raiseBay n k).port q).bus = (s.port q).bus) ∧ { s.raiseBay n k with ports := s.ports } = s) ∧
    ∀ n : PlantNotice, (∀ q : Port, ((s.raisePlant n).port q).notices =
        if n = .library ∧ q ≠ .service then (s.port q).notices else (s.port q).notices.addPlant n) ∧
      (∀ q, ((s.raisePlant n).port q).bus = (s.port q).bus) ∧ { s.raisePlant n with ports := s.ports } = s) ∧
  (∀ (ns : NoticeSet) (k : Bay),
    ns.addBay .step k = { ns with step := ns.step ||| BitVec.twoPow 4 k.val } ∧
    ns.addBay .grant k = { ns with grant := ns.grant ||| BitVec.twoPow 4 k.val } ∧
    ns.addBay .finish k = { ns with finish := ns.finish ||| BitVec.twoPow 4 k.val } ∧
    ns.addBay .halt k = { ns with halt := ns.halt ||| BitVec.twoPow 4 k.val } ∧
    ns.addBay .door k = { ns with door := ns.door ||| BitVec.twoPow 4 k.val } ∧
    (∀ (set : BitVec 4) (j : Bay), (set ||| BitVec.twoPow 4 k.val).getLsbD j.val = (set.getLsbD j.val || decide (j = k))) ∧
    ns.addPlant .waterLow = { ns with waterLow := true } ∧ ns.addPlant .tankFull = { ns with tankFull := true } ∧
    ns.addPlant .shed = { ns with shed := true } ∧ ns.addPlant .trip = { ns with trip := true } ∧
    ns.addPlant .library = { ns with library := true }) ∧
  (∀ r : PortRec, r.attentionLow = true ↔ ∃ i < 10, r.notices.kinds.getLsbD i = true ∧ r.mask.getLsbD i = true) ∧
  (∀ (ns : NoticeSet) (sel : BitVec 10), ns.select sel =
    { step := if sel.getLsbD 0 then ns.step else 0, grant := if sel.getLsbD 1 then ns.grant else 0
      finish := if sel.getLsbD 2 then ns.finish else 0, halt := if sel.getLsbD 3 then ns.halt else 0
      door := if sel.getLsbD 4 then ns.door else 0, waterLow := sel.getLsbD 5 && ns.waterLow
      tankFull := sel.getLsbD 6 && ns.tankFull, shed := sel.getLsbD 7 && ns.shed, trip := sel.getLsbD 8 && ns.trip
      library := sel.getLsbD 9 && ns.library }) ∧
  (∀ ns : NoticeSet, ns.report.length = 7 ∧ fieldAt ns.report 0 = ns.kinds.toNat ∧
    [ns.kinds.getLsbD 0, ns.kinds.getLsbD 1, ns.kinds.getLsbD 2, ns.kinds.getLsbD 3, ns.kinds.getLsbD 4,
      ns.kinds.getLsbD 5, ns.kinds.getLsbD 6, ns.kinds.getLsbD 7, ns.kinds.getLsbD 8, ns.kinds.getLsbD 9] =
    [ns.step != 0, ns.grant != 0, ns.finish != 0, ns.halt != 0, ns.door != 0, ns.waterLow, ns.tankFull, ns.shed, ns.trip,
      ns.library] ∧
    [ns.report.getD 2 0, ns.report.getD 3 0, ns.report.getD 4 0, ns.report.getD 5 0, ns.report.getD 6 0] =
    [ns.step.setWidth 8, ns.grant.setWidth 8, ns.finish.setWidth 8, ns.halt.setWidth 8, ns.door.setWidth 8]) ∧
  ∀ (p : Port) (mask : Word16) (s : State), s.Accepts p →
    exec (.setNoticeMask p mask) s = .next (s.mapPort p fun r =>
      { r with
        phase := .replyReady
        rx := []
        overrun := false
        reply := some { status := .ok, data := [] }
        mask := mask.setWidth 10 })

/-! ## Programs and the library -/

/-- READ_RECIPE completes on every port with the tests in order: number, BUSY, EMPTY, and else the stored record (R13). A slot is BUSY
while an operation touches it, and during an ERASE_LIBRARY every slot is (R5, R6). -/
def Obligations.ReadRecipeAnswersByTheSlotTestsInOrder : Prop :=
  (∀ (p : Port) (slot : Byte) (s : State), s.Accepts p →
    (16 ≤ slot.toNat → exec (.readRecipe p slot) s = .next (s.reply p .badValue)) ∧
    ∀ n : Fin 16, slot.toNat = n.val →
      (s.library.busy n = true → exec (.readRecipe p slot) s = .next (s.reply p .slotBusy)) ∧
      (s.library.busy n = false →
        (s.library.slots[n] = none → exec (.readRecipe p slot) s = .next (s.reply p .slotEmpty)) ∧
        ∀ r, s.library.slots[n] = some r → exec (.readRecipe p slot) s = .next (s.replyWith p r.bytes))) ∧
  ∀ (l : Library) (n : Fin 16), l.busy n = true ↔
    (∃ ph r, l.op = .writing n ph r) ∨ l.op = .erasing n ∨ ∃ m, l.op = .erasingAll m

/-- WRITE_RECIPE, ERASE_RECIPE and ERASE_LIBRARY complete: each starts its operation on a slot whose content is gone, a write with
the normalized record, and the service port is PENDING; a slot number outside 0 to 15 or a record that fails its tests is BAD_VALUE and
changes nothing else (R7, R8, R10, R11, R174). -/
def Obligations.TheLibraryCommandsStartTheirOperations : Prop :=
  (∀ (slot : Byte) (record : List Byte) (s : State), s.Accepts .service → record.length ≤ 107 →
    (16 ≤ slot.toNat ∨ parseProgram record = none →
      exec (.writeRecipe .service slot record) s = .next (s.reply .service .badValue)) ∧
    ∀ (n : Fin 16) (r : Program), slot.toNat = n.val → parseProgram record = some r →
      exec (.writeRecipe .service slot record) s =
        .next (({ s with library :=
          { slots := s.library.slots.set n none, op := .writing n .erasing r.normalize } }).mapPort .service
            fun q => { q with
              phase := .pending
              rx := []
              overrun := false
              reply := some { status := .pending, data := [] } })) ∧
  ∀ s : State, s.Accepts .service →
    (∀ slot : Byte, 16 ≤ slot.toNat → exec (.eraseRecipe .service slot) s = .next (s.reply .service .badValue)) ∧
    (∀ (slot : Byte) (n : Fin 16), slot.toNat = n.val → exec (.eraseRecipe .service slot) s =
      .next (({ s with library := { slots := s.library.slots.set n none, op := .erasing n } }).mapPort .service
        PortRec.becomePending)) ∧
    exec (.eraseLibrary .service) s =
      .next (({ s with library := { slots := s.library.slots.set 0 none, op := .erasingAll 0 } }).mapPort .service
        PortRec.becomePending)

/-- LIBRARY_PHASE_END and LIBRARY_COMPLETION complete: the phases of each operation in order, and at the end slots, operation
state, reply and LIBRARY notice in one event (R6, R8, R10 to R12). Each row with no such phase before it has no effect: the
model's choice (log 6, log 7). -/
def Obligations.TheLibraryGoesThroughItsPhasesToItsCompletion : Prop :=
  ∀ s : State,
    (s.library.op = .idle → exec .libraryPhaseEnd s = .next s ∧ exec .libraryCompletion s = .next s) ∧
    ((∃ n r, s.library.op = .writing n .erasing r ∨ s.library.op = .writing n .programming r) ∨
        (∃ n, s.library.op = .erasingAll n ∧ n.val + 1 < 16) → exec .libraryCompletion s = .next s) ∧
    (∀ n r, s.library.op = .writing n .erasing r →
      exec .libraryPhaseEnd s = .next { s with library := { s.library with op := .writing n .programming r } }) ∧
    (∀ n r, s.library.op = .writing n .programming r →
      exec .libraryPhaseEnd s = .next { s with library := { s.library with op := .writing n .marking r } }) ∧
    (∀ (n : Fin 16) (h : n.val + 1 < 16), s.library.op = .erasingAll n →
      exec .libraryPhaseEnd s = .next { s with library :=
        { slots := s.library.slots.set (n.val + 1) none, op := .erasingAll ⟨n.val + 1, h⟩ } }) ∧
    ∀ slots : Vector (Option Program) 16,
      ((∃ n r, s.library.op = .writing n .marking r ∧ slots = s.library.slots.set n (some r)) ∨
        (∃ n, s.library.op = .erasing n ∧ slots = s.library.slots) ∨
        (s.library.op = .erasingAll 15 ∧ slots = s.library.slots)) →
      ∀ i ∈ [Instr.libraryPhaseEnd, Instr.libraryCompletion],
        exec i s = .next ((({ s with library := { slots := slots, op := .idle } }).reply .service .ok).raisePlant .library)

/-- A record that is written and read back reads normalized, and the other slots are as they were (R8, R9, R12; that the third
LIBRARY_PHASE_END does the work of LIBRARY_COMPLETION is the model's reading, log 6). -/
def Obligations.AWrittenRecipeReadsBackNormalized : Prop :=
  ∀ (slot : Byte) (n : Fin 16) (record : List Byte) (r : Program) (p : Port) (rest : List Instr) (s : State),
    s.Accepts .service → s.Accepts p → slot.toNat = n.val → parseProgram record = some r →
    s.pending =
      .writeRecipe .service slot record :: .libraryPhaseEnd :: .libraryPhaseEnd :: .libraryPhaseEnd ::
        .readRecipe p slot :: rest →
    ∃ t, core.run 5 s = .next t ∧ t.pending = rest ∧ (t.port p).reply = some { status := .ok, data := r.normalize.bytes } ∧
      t.library.slots[n] = some r.normalize ∧ t.library.op = .idle ∧
      ∀ m : Fin 16, m ≠ n → t.library.slots[m] = s.library.slots[m]

/-- R3: fan level, flags and duration limit by the kind of the step. -/
def Obligations.FanFlagsAndDurationAreNormalizedByKind : Prop :=
  ∀ (limit : Nat) (r : StepRecord),
    (r.normalize limit).kind = r.kind ∧
    (r.normalize limit).fanLevel = (if r.kind = .settle then 0 else max 1 (min 15 r.fanLevel)) ∧
    (∀ i : Nat, i < 8 → (r.normalize limit).flags.getLsbD i =
      (decide (r.kind = .dry ∧ i = 0) && r.flags.getLsbD i)) ∧
    (r.normalize limit).duration = max 10 (min 7200 r.duration)

/-- R4: target and air temperature by the kind of the step, the fabric limit clamped first, and the target read as a signed
number in a COOL step and as an unsigned one in every other. And the record as a whole (R2): the fabric limit clamped, the rate floor
and the step count kept, each step normalized on its own with the limit as clamped, and a normalized record unchanged by it. -/
def Obligations.TargetAndAirTemperatureAreNormalizedByKind : Prop :=
  (∀ (p : Program) (i : Nat) (r : StepRecord), p.steps[i]? = some r → ∃ q, p.normalize.steps[i]? = some q ∧
    q.target = (match r.kind with
      | .steam => max 300 (min 1000 r.target)
      | .dry => max 0 (min 8000 r.target)
      | .cool => max 150 (min 600 r.target)
      | .settle | .refresh => 0) ∧
    q.airTemp = (if r.kind = .dry then max 30 (min p.normalize.fabricLimit r.airTemp) else 0)) ∧
  (∀ p : Program, p.normalize.fabricLimit = max 30 (min 75 p.fabricLimit)) ∧
  (∀ p : Program, p.normalize =
      { fabricLimit := max 30 (min 75 p.fabricLimit), rateFloor := p.rateFloor
        steps := p.steps.map (StepRecord.normalize (max 30 (min 75 p.fabricLimit))) } ∧
    p.normalize.normalize = p.normalize) ∧
  (∀ (limit : Nat) (r : StepRecord), 30 ≤ limit →
    (r.normalize limit).target = (match r.kind with
      | .steam => max 300 (min 1000 r.target)
      | .dry => max 0 (min 8000 r.target)
      | .cool => max 150 (min 600 r.target)
      | .settle | .refresh => 0) ∧
    (r.normalize limit).airTemp = if r.kind = .dry then max 30 (min limit r.airTemp) else 0) ∧
  ∀ (kind : StepKind) (hi lo : Byte), targetOf kind hi lo =
    if kind = .cool ∧ 128 ≤ hi.toNat then (hi.toNat * 256 + lo.toNat : Int) - 65536 else hi.toNat * 256 + lo.toNat

/-- The program record's wire layout loses nothing and takes nothing else: every record with values the fields can carry is read
back from its bytes, and bytes that pass the tests are the bytes of the record read from them; each field stands at its offset. -/
def Obligations.ProgramRecordsDecodeAndEncode : Prop :=
  (∀ p : Program, p.OnTheWire →
    parseProgram p.bytes = some p ∧ p.bytes.length = 4 + 8 * p.steps.length ∧
    (p.bytes.getD 0 0).toNat = p.fabricLimit ∧ fieldAt p.bytes 1 = p.rateFloor ∧ (p.bytes.getD 3 0).toNat = p.steps.length ∧
    ∀ (i : Nat) (r : StepRecord), p.steps[i]? = some r →
      p.bytes.getD (4 + 8 * i) 0 = r.kind.code ∧ (p.bytes.getD (5 + 8 * i) 0).toNat = r.fanLevel ∧
      p.bytes.getD (6 + 8 * i) 0 = r.flags ∧ fieldAt p.bytes (7 + 8 * i) = r.duration ∧
      (fieldAt p.bytes (9 + 8 * i) : Int) = r.target % 65536 ∧ (p.bytes.getD (11 + 8 * i) 0).toNat = r.airTemp) ∧
  (∀ (bytes : List Byte) (p : Program), parseProgram bytes = some p → p.OnTheWire ∧ p.bytes = bytes) ∧
  [StepKind.steam, .settle, .dry, .refresh, .cool].map (·.code.toNat) = [1, 2, 3, 4, 5]

/-- The settings record's wire layout: every record that SET_PLANT may accept is read back from its 40 bytes, and 40 bytes that
pass its tests are the bytes of the record read from them, with each field at its offset; the ranges of the fields and the orders of
the marks (R168, R178). -/
def Obligations.SettingsRecordsDecodeAndEncode : Prop :=
  (∀ st : Settings, st.inRange = true → st.marksOrdered = true →
    parseSettings st.bytes = some st ∧ st.bytes.length = 40) ∧
  (∀ (bytes : List Byte) (st : Settings), bytes.length = 40 → parseSettings bytes = some st →
    st.bytes = bytes ∧ st.inRange = true ∧ st.marksOrdered = true ∧
    st = { baseReserve := fieldAt bytes 0, steamDraw := fieldAt bytes 2, compressorDraw := fieldAt bytes 4,
           reheaterDraw := fieldAt bytes 6, dwell := (bytes.getD 8 0).toNat, warmHold := fieldAt bytes 9,
           minOff := fieldAt bytes 11, minRun := fieldAt bytes 13, waitTimeout := fieldAt bytes 15,
           starvationAge := fieldAt bytes 17,
           duct := ⟨fieldAt bytes 19, fieldAt bytes 21, fieldAt bytes 23, fieldAt bytes 25⟩,
           reservoirLow := fieldAt bytes 27, reservoirResume := fieldAt bytes 29, condensateFull := fieldAt bytes 31,
           condensateResume := fieldAt bytes 33, drainFitted := bytes.getD 35 0 = 1, drainOn := fieldAt bytes 36,
           drainOff := fieldAt bytes 38 }) ∧
  ∀ st : Settings,
    (st.inRange = true ↔
      st.baseReserve ≤ 1000 ∧ 500 ≤ st.steamDraw ∧ st.steamDraw ≤ 3000 ∧ 200 ≤ st.compressorDraw ∧
      st.compressorDraw ≤ 1500 ∧ st.reheaterDraw ≤ 1000 ∧ st.dwell ≤ 60 ∧ st.warmHold ≤ 600 ∧ st.minOff ≤ 600 ∧
      st.minRun ≤ 600 ∧ 60 ≤ st.waitTimeout ∧ st.waitTimeout ≤ 7200 ∧ 30 ≤ st.starvationAge ∧
      st.starvationAge ≤ 3600 ∧ (∀ k : Bay, 1 ≤ st.duct.get k ∧ st.duct.get k ≤ 2000) ∧ st.reservoirLow ≤ 1000 ∧
      st.reservoirResume ≤ 1000 ∧ st.condensateFull ≤ 1000 ∧ st.condensateResume ≤ 1000 ∧ st.drainOn ≤ 1000 ∧
      st.drainOff ≤ 1000) ∧
    (st.marksOrdered = true ↔ st.reservoirLow < st.reservoirResume ∧ st.condensateResume < st.condensateFull ∧
      st.drainOff < st.drainOn ∧ st.drainOn < st.condensateFull)

/-! ## Bays -/

/-- LOAD_RECIPE and LOAD_PROGRAM complete in IDLE: the bay is LOADED with the record, the estimator is set from the water estimate,
and nothing else of the part changes; a slot that the library refuses keeps everything but the reply, by the slot tests in
order (R14, R19, R142). -/
def Obligations.ALoadFillsTheBayOrChangesNothing : Prop :=
  (∀ (o : Origin) (water : Word16) (i : Instr) (r : Program) (src : Source) (s : State),
    s.Accepts o.port → o.inRange = true → s.NothingOwed → (s.bay o.bay).state = .idle →
    ((∃ record q, i = .loadProgram o water record ∧ parseProgram record = some q ∧ r = q.normalize ∧ src = .inlined) ∨
      (∃ (slot : Byte) (n : Fin 16), i = .loadRecipe o slot water ∧ slot.toNat = n.val ∧ s.library.busy n = false ∧
        s.library.slots[n] = some r ∧ src = .slot n)) →
    ∃ u, exec i s = .next (u.reply o.port .ok) ∧ s.OnlyBay u o.bay id ∧
      u.bay o.bay =
        { state := .loaded, program := some r, source := some src, stepIndex := 0,
          stepRemaining := ((r.steps.head?.map fun q => q.duration * 100)).getD 0, waitElapsed := 0, outcome := .none,
          fault := none, underdry := false, door := (s.bay o.bay).door, overheatRun := 0, purgeRemaining := none,
          limitReached := false, waitReached := false } ∧
      u.est.get o.bay = { m := min 8000 water.toNat * 1000, window := [], valid := false } ∧
      (u.air o.bay).fanLevel = 0 ∧ (u.air o.bay).vent = false) ∧
  ∀ (o : Origin) (slot : Byte) (water : Word16) (s : State),
    s.Accepts o.port → o.inRange = true → (s.bay o.bay).state = .idle →
    (16 ≤ slot.toNat → exec (.loadRecipe o slot water) s = .next (s.reply o.port .badValue)) ∧
    ∀ n : Fin 16, slot.toNat = n.val →
      (s.library.busy n = true → exec (.loadRecipe o slot water) s = .next (s.reply o.port .slotBusy)) ∧
      (s.library.busy n = false → s.library.slots[n] = none →
        exec (.loadRecipe o slot water) s = .next (s.reply o.port .slotEmpty))

/-- The table of commands and states: a bay command outside its states is answered WRONG_STATE and changes nothing else (R19,
R20, R37 to R39). -/
def Obligations.ABayCommandOutsideItsStatesChangesNothing : Prop :=
  ∀ (o : Origin) (s : State), s.Accepts o.port → o.inRange = true →
    ((s.bay o.bay).state ≠ .idle → ∀ (slot : Byte) (water : Word16) (record : List Byte),
      exec (.loadRecipe o slot water) s = .next (s.reply o.port .wrongState) ∧
      (parseProgram record ≠ none →
        exec (.loadProgram o water record) s = .next (s.reply o.port .wrongState))) ∧
    ((s.bay o.bay).state ≠ .loaded → exec (.start o) s = .next (s.reply o.port .wrongState)) ∧
    ((s.bay o.bay).state ∈ [.idle, .finished, .halted] → exec (.abort o) s = .next (s.reply o.port .wrongState)) ∧
    ((s.bay o.bay).state ∈ [.idle, .loaded, .finished, .halted] →
      exec (.skipStep o) s = .next (s.reply o.port .wrongState)) ∧
    ((s.bay o.bay).state ∈ [.idle, .loaded, .await, .active, .held] →
      exec (.clear o) s = .next (s.reply o.port .wrongState))

/-- The entry of a step (R21 to R24): HELD with the door open; else ACTIVE at once in a step without a resource, ACTIVE by
carry-over of the resource held with its reheat judged anew, and otherwise AWAIT with a new request. What it does calls for an
evaluation exactly where a grant was given up, a request posted or a reheat status changed (R62). The current step is the one at the
step index of the working program, and the boost flag is bit 0 of its flags (R1, R22). That an entry drops the mark of an end that no row has
taken is the model's choice (log 30). -/
def Obligations.AStepIsEnteredByDoorKindAndGrant : Prop :=
  (∀ b : BayContext, (b.program = none → b.currentStep = none) ∧
    ∀ p : Program, b.program = some p → b.currentStep = p.steps[b.stepIndex]?) ∧
  (∀ r : StepRecord, r.boost = r.flags.getLsbD 0) ∧
  ∀ (s : State) (k : Bay) (fresh : Bool) (r : StepRecord) (rem : Nat), (s.bay k).currentStep = some r →
    rem = (if fresh then r.duration * 100 else (s.bay k).stepRemaining) →
    ((s.bay k).door = .opened →
      s.LetsGo (s.enterStep k fresh) k (s.arb.requests.get k) id ∧
      (s.enterStep k fresh).arb.evalOwed = (s.arb.evalOwed || s.holdsGrant k) ∧
      (s.enterStep k fresh).bay k = { s.bay k with
        state := .held, stepRemaining := rem, overheatRun := 0, limitReached := false, waitReached := false }) ∧
    ((s.bay k).door = .shut →
      (r.kind ∈ [.settle, .refresh, .cool] →
        s.LetsGo (s.enterStep k fresh) k (s.arb.requests.get k) id ∧
        (s.enterStep k fresh).arb.evalOwed = (s.arb.evalOwed || s.holdsGrant k) ∧
        (s.enterStep k fresh).bay k = { s.bay k with
          state := .active, stepRemaining := rem, limitReached := false, waitReached := false }) ∧
      (r.kind = .steam ∧ s.arb.holdsSteam k = true ∨ r.kind = .dry ∧ s.arb.holdsDry k = true →
        (s.enterStep k fresh).bay k = { s.bay k with
          state := .active, stepRemaining := rem, limitReached := false, waitReached := false } ∧
        (s.enterStep k fresh).arb.requests = s.arb.requests ∧ (s.enterStep k fresh).arb.ring = s.arb.ring ∧
        (s.enterStep k fresh).arb.steamRow = s.arb.steamRow ∧ (s.enterStep k fresh).steam = s.steam ∧
        (s.enterStep k fresh).stable = s.stable ∧ { (s.enterStep k fresh).dry with air := s.dry.air } = s.dry ∧
        (∀ j, j ≠ k → (s.enterStep k fresh).bay j = s.bay j ∧ (s.enterStep k fresh).air j = s.air j) ∧
        (s.arb.committed = s.arb.draw s.dry.comp →
          (s.enterStep k fresh).arb.committed = (s.enterStep k fresh).arb.draw s.dry.comp) ∧
        (r.kind = .steam → s.arb.holdsDry k = false → (s.enterStep k fresh).arb.slotA = s.arb.slotA ∧
          (s.enterStep k fresh).arb.slotB = s.arb.slotB ∧
          (s.enterStep k fresh).air k = State.demanded ((s.enterStep k fresh).bay k) (s.air k)) ∧
        (s.enterStep k fresh).arb.slotA.map (·.bay) = s.arb.slotA.map (·.bay) ∧
        (s.enterStep k fresh).arb.slotB.map (·.bay) = s.arb.slotB.map (·.bay) ∧
        (r.kind = .steam → s.arb.holdsDry k = false → (s.enterStep k fresh).arb.evalOwed = s.arb.evalOwed) ∧
        (∀ before after, r.kind = .dry → s.arb.reheatOf k = some before →
          after = (if r.boost then (if before = .on then Reheat.on else .pending) else .notAsked) →
          (s.enterStep k fresh).arb.reheatOf k = some after ∧
          (s.enterStep k fresh).air k = State.demanded ((s.enterStep k fresh).bay k)
            { s.air k with reheater := decide (after = before) && (s.air k).reheater } ∧
          (∀ j, j ≠ k → (s.enterStep k fresh).arb.reheatOf j = s.arb.reheatOf j) ∧
          (s.enterStep k fresh).arb.evalOwed = (s.arb.evalOwed || decide (after ≠ before))) ∧
        ∀ q, ((s.enterStep k fresh).port q) = s.port q) ∧
      (r.kind = .steam → s.arb.holdsSteam k = false →
        s.LetsGo (s.enterStep k fresh) k (some (Entry.fresh .steam false)) id ∧ (s.enterStep k fresh).arb.evalOwed = true ∧
        (s.enterStep k fresh).bay k = { s.bay k with
          state := .await, stepRemaining := rem, waitElapsed := 0, overheatRun := 0, limitReached := false,
          waitReached := false }) ∧
      (r.kind = .dry → s.arb.holdsDry k = false →
        s.LetsGo (s.enterStep k fresh) k (some (Entry.fresh .dry r.boost)) id ∧ (s.enterStep k fresh).arb.evalOwed = true ∧
        (s.enterStep k fresh).bay k = { s.bay k with
          state := .await, stepRemaining := rem, waitElapsed := 0, overheatRun := 0, limitReached := false,
          waitReached := false }))

/-- START completes in LOADED: step 0 is entered fresh, with its full duration, and OK follows the evaluation. With the door open
the bay is HELD; else a step without a resource is ACTIVE at once and a STEAM or DRY step posts its request, which calls for an
evaluation (R20 to R22, R24, R62). -/
def Obligations.StartEntersTheFirstStep : Prop :=
  ∀ (o : Origin) (r : StepRecord) (s : State), s.Accepts o.port → o.inRange = true → s.HoldersActive →
    (s.bay o.bay).state = .loaded → (s.bay o.bay).currentStep = some r →
    ∃ t, exec (.start o) s = .next (t.reply o.port .ok) ∧
      ((s.bay o.bay).door = .opened →
        s.LetsGoThenSettles t o.bay (s.arb.requests.get o.bay) id { s.bay o.bay with
          state := .held, stepRemaining := r.duration * 100, overheatRun := 0, limitReached := false,
          waitReached := false } false) ∧
      ((s.bay o.bay).door = .shut → r.kind ∈ [.settle, .refresh, .cool] →
        s.LetsGoThenSettles t o.bay (s.arb.requests.get o.bay) id { s.bay o.bay with
          state := .active, stepRemaining := r.duration * 100, limitReached := false, waitReached := false } false) ∧
      ((s.bay o.bay).door = .shut → r.kind = .steam ∨ r.kind = .dry →
        s.LetsGoThenSettles t o.bay
          (some (if r.kind = .steam then Entry.fresh .steam false else Entry.fresh .dry r.boost)) id { s.bay o.bay with
            state := .await, stepRemaining := r.duration * 100, waitElapsed := 0, overheatRun := 0, limitReached := false,
            waitReached := false } true)

/-- ABORT completes in LOADED, AWAIT, ACTIVE and HELD: request and grants given up, the bay IDLE with outcome ABORTED, fault and
underdry mark as they were; where there was a request or a grant to give up, an evaluation follows (R38, R62, R67). That an ABORT
taken before the row of a step end or wait timeout that its tick has brought goes first and drops that end with its mark is the model's
choice (log 30), and so it is of a dry fire or a min-off run out (log 31). -/
def Obligations.AbortGivesUpEverythingAndGoesToIdle : Prop :=
  ∀ (o : Origin) (s : State), s.Accepts o.port → o.inRange = true →
    (s.bay o.bay).state ∈ [.loaded, .await, .active, .held] →
    ∃ t, exec (.abort o) s = .next (t.reply o.port .ok) ∧
      s.LetsGoThenSettles t o.bay none id { s.bay o.bay with
        state := .idle, program := none, source := none, stepIndex := 0, stepRemaining := 0, waitElapsed := 0,
        outcome := .aborted, overheatRun := 0, limitReached := false, waitReached := false } (s.claims o.bay)

/-- SKIP_STEP completes in AWAIT, ACTIVE and HELD: the last step finishes the bay, and any other gives way to the next, entered
fresh, with STEP raised; the evaluation that either calls for follows (R35 to R37, R62). That a SKIP_STEP taken before the row of a
step end or wait timeout that its tick has brought goes first and drops that end with its mark is the model's choice (log 30), and so
it is of a dry fire or a min-off run out (log 31). -/
def Obligations.SkipStepAdvancesOrFinishes : Prop :=
  ∀ (o : Origin) (p : Program) (s : State), s.Accepts o.port → o.inRange = true →
    (s.bay o.bay).state ∈ [.await, .active, .held] → (s.bay o.bay).program = some p →
    (p.steps.length ≤ (s.bay o.bay).stepIndex + 1 →
      ∃ t, exec (.skipStep o) s = .next (t.reply o.port .ok) ∧
        s.LetsGoThenSettles t o.bay none (NoticeSet.addBay .finish o.bay) { s.bay o.bay with
          state := .finished, outcome := if (s.bay o.bay).underdry then .underdry else .complete, overheatRun := 0,
          limitReached := false, waitReached := false } (s.claims o.bay)) ∧
    ((s.bay o.bay).stepIndex + 1 < p.steps.length →
      exec (.skipStep o) s = .next (((((s.withdraw o.bay).mapBay o.bay fun b =>
        { b with stepIndex := b.stepIndex + 1 }).enterStep o.bay true).raiseBay .step o.bay).settle.reply o.port .ok) ∧
      (s.withdraw o.bay).arb = { s.arb with
        requests := s.arb.requests.set o.bay none
        evalOwed := s.arb.evalOwed || (s.arb.requests.get o.bay).isSome } ∧
      { s.withdraw o.bay with arb := s.arb } = s)

/-- CLEAR completes in FINISHED and HALTED: IDLE without program or purge; outcome, fault and underdry mark stand (R39). -/
def Obligations.ClearEmptiesTheBayAndKeepsItsOutcome : Prop :=
  ∀ (o : Origin) (s : State), s.Accepts o.port → o.inRange = true → s.NothingOwed →
    (s.bay o.bay).state ∈ [.finished, .halted] →
    ∃ u, exec (.clear o) s = .next (u.reply o.port .ok) ∧ s.OnlyBay u o.bay id ∧ u.est = s.est ∧
      u.bay o.bay = { s.bay o.bay with
        state := .idle, program := none, source := none, stepIndex := 0, stepRemaining := 0, waitElapsed := 0,
        overheatRun := 0, purgeRemaining := none, limitReached := false, waitReached := false }

/-- WAIT_TIMEOUT, PURGE_END and STEP_ENDS_ON_LIMIT complete: request withdrawn and bay halted in one event; the purge absent, fan and
flap off and closed, the bay HALTED; a DRY step judged for the underdry mark on M, then the bay advanced with STEP raised, or
finished with the outcome the mark gives; each with the evaluation it calls for. And the demands that a bay's condition makes on
its fan and flap (R25, R26, R31, R35, R36, R43, R45, R62). -/
def Obligations.TheBayTimersEndWaitPurgeAndStep : Prop :=
  (∀ (k : Bay) (s : State),
    ((s.bay k).state = .await → (s.bay k).waitReached = true →
      ∃ t, exec (.waitTimeout k) s = .next t ∧
        s.LetsGoThenSettles t k none (NoticeSet.addBay .halt k) { s.bay k with
          state := .halted, outcome := .halted, fault := some .waitTimeout, overheatRun := 0, limitReached := false,
          waitReached := false } (s.claims k)) ∧
    ((s.bay k).state = .halted → (s.bay k).purgeRemaining = some 0 →
      ∃ u, exec (.purgeEnd k) s = .next u ∧ s.OnlyBay u k id ∧ u.est = s.est ∧
        u.bay k = { s.bay k with purgeRemaining := none })) ∧
  (∀ (k : Bay) (p : Program) (r : StepRecord) (mark : Bool) (s : State),
    (s.bay k).state = .active → (s.bay k).limitReached = true → (s.bay k).program = some p →
    (s.bay k).currentStep = some r →
    mark = ((s.bay k).underdry || decide (r.kind = .dry ∧ r.target * 1000 < (s.est.get k).m)) →
    ((s.bay k).stepIndex + 1 = p.steps.length →
      ∃ t, exec (.stepEndsOnLimit k) s = .next t ∧
        s.LetsGoThenSettles t k (s.arb.requests.get k) (NoticeSet.addBay .finish k) { s.bay k with
          state := .finished, underdry := mark, outcome := if mark then .underdry else .complete, overheatRun := 0,
          limitReached := false, waitReached := false } (s.holdsGrant k)) ∧
    ((s.bay k).stepIndex + 1 < p.steps.length →
      exec (.stepEndsOnLimit k) s = .next
        ((((s.mapBay k fun b => { b with underdry := mark, stepIndex := b.stepIndex + 1 }).enterStep k
          true).raiseBay .step k).settle))) ∧
  (∀ (k : Bay) (f : BayContext → BayContext) (s : State), s.mapBay k f = { s with bays := s.bays.set k (f (s.bay k)) }) ∧
  ∀ (b : BayContext) (r : StepRecord),
    (b.state ∈ [.await, .active] → b.currentStep = some r → b.fanDemand = if r.kind = .settle then 0 else r.fanLevel) ∧
    (b.state = .halted → b.fanDemand = if b.purgeRemaining ≠ none ∧ b.door = .shut then 15 else 0) ∧
    (b.state ∈ [.idle, .loaded, .held, .finished] → b.fanDemand = 0 ∧ b.ventDemand = false) ∧
    (b.state = .await → b.ventDemand = false) ∧
    (b.state = .active → b.currentStep = some r → (b.ventDemand = true ↔ r.kind = .refresh ∨ r.kind = .cool)) ∧
    (b.state = .halted → (b.ventDemand = true ↔ b.purgeRemaining ≠ none))

/-- DOOR_OPENING completes: the field is OPEN and DOOR is raised; in AWAIT and ACTIVE the bay gives up request and grants and is
HELD, its step index and remaining time frozen, with the evaluation that this calls for; otherwise only the demands may follow (R18,
R40, R42, R62). That a door opening taken before the row of a step end or wait timeout that its tick has brought goes first, freezes
the remaining time as it stands and drops that end with its mark is the model's choice (log 30), and so it is of a dry fire or a
min-off run out, which it drops (log 31). -/
def Obligations.ADoorOpeningHoldsTheTreatment : Prop :=
  ∀ (k : Bay) (s base : State), (s.bay k).door = .shut →
    base = { s with inputs := { s.inputs with door := s.inputs.door.set k { level := true, run := 0 } } } →
    ((s.bay k).state ∈ [.await, .active] →
      ∃ t, exec (.doorOpening k) s = .next t ∧
        base.LetsGoThenSettles t k none (NoticeSet.addBay .door k) { s.bay k with
          state := .held, door := .opened, overheatRun := 0, limitReached := false, waitReached := false } (s.claims k)) ∧
    (s.NothingOwed → (s.bay k).state ∈ [.idle, .loaded, .held, .finished, .halted] →
      ∃ u, exec (.doorOpening k) s = .next u ∧ base.OnlyBay u k (NoticeSet.addBay .door k) ∧ u.est = s.est ∧
        u.bay k = { s.bay k with door := .opened })

/-- DOOR_CLOSING completes: the field is CLOSED and DOOR is raised; in HELD the step is entered again with its time as frozen and
the evaluation that this calls for follows; otherwise only the demands may follow (R18, R41, R42, R62). -/
def Obligations.ADoorClosingEntersTheStepAgain : Prop :=
  ∀ (k : Bay) (s base : State), (s.bay k).door = .opened →
    base = { s with inputs := { s.inputs with door := s.inputs.door.set k { level := false, run := 0 } } } →
    ((s.bay k).state = .held →
      exec (.doorClosing k) s = .next
        ((((base.mapBay k fun b => { b with door := .shut }).enterStep k false).raiseBay .door k).settle)) ∧
    (s.NothingOwed → (s.bay k).state ≠ .held →
      ∃ u, exec (.doorClosing k) s = .next u ∧ base.OnlyBay u k (NoticeSet.addBay .door k) ∧ u.est = s.est ∧
        u.bay k = { s.bay k with door := .shut })

/-- A sequencer's part of a scan complete: nothing outside ACTIVE; else SENSOR_FAULT, the overheat run and OVERHEAT with its
purge, and the end test, in this order, after the estimator's part and before the evaluation that a halt or an end calls for (R32
to R34, R44 to R46, R62, R137, R153). A step that ends is followed by the next, entered fresh with STEP raised, and the last by the
finish (R35, R36). -/
def Obligations.ABayTakesAScanInOrder : Prop :=
  ∀ (k : Bay) (p : Program) (r : StepRecord) (inlet : Channel) (run : Nat) (s : State),
    s.scanOneBay k = ((s.scanEstimator k).scanBay k).settle ∧
    ((s.bay k).state ≠ .active → s.scanBay k = s) ∧
    ((s.bay k).state = .active → (s.bay k).program = some p → (s.bay k).currentStep = some r →
      inlet = s.chan (bayChannel k 0) →
      run = (if inlet.faulted = false ∧ (p.fabricLimit : Int) * 10 + 50 < inlet.value then
        (s.bay k).overheatRun + 1 else 0) →
      (inlet.faulted = true → r.kind = .steam ∨ r.kind = .dry →
        s.LetsGo (s.scanBay k) k none (NoticeSet.addBay .halt k) ∧
        (s.scanBay k).arb.evalOwed = (s.arb.evalOwed || s.claims k) ∧
        (s.scanBay k).bay k = { s.bay k with
          state := .halted, outcome := .halted, fault := some .sensorFault, overheatRun := 0, limitReached := false,
          waitReached := false }) ∧
      (inlet.faulted = false ∨ r.kind ∈ [.settle, .refresh, .cool] →
        (5 ≤ run →
          s.LetsGo (s.scanBay k) k none (NoticeSet.addBay .halt k) ∧
          (s.scanBay k).arb.evalOwed = (s.arb.evalOwed || s.claims k) ∧
          (s.scanBay k).bay k = { s.bay k with
            state := .halted, outcome := .halted, fault := some .overheat, overheatRun := 0,
            purgeRemaining := some 12000, limitReached := false, waitReached := false }) ∧
        (run < 5 →
          (s.endTest k = true →
            s.scanBay k = (s.mapBay k fun b => { b with overheatRun := run }).advance k) ∧
          (s.endTest k = false → s.scanBay k = s.mapBay k fun b => { b with overheatRun := run })))) ∧
    ((s.bay k).program = some p →
      ((s.bay k).stepIndex + 1 < p.steps.length →
        s.advance k = ((s.mapBay k fun b => { b with stepIndex := b.stepIndex + 1 }).enterStep k true).raiseBay .step k) ∧
      (p.steps.length ≤ (s.bay k).stepIndex + 1 →
        s.LetsGo (s.advance k) k (s.arb.requests.get k) (NoticeSet.addBay .finish k) ∧
        (s.advance k).arb.evalOwed = (s.arb.evalOwed || s.holdsGrant k) ∧
        (s.advance k).bay k = { s.bay k with
          state := .finished, outcome := if (s.bay k).underdry then .underdry else .complete, overheatRun := 0,
          limitReached := false, waitReached := false })) ∧
    ((s.bay k).program = some p → (s.bay k).currentStep = some r →
      (s.endTest k = true ↔
        r.kind = .dry ∧ (s.est.get k).valid = true ∧ (s.est.get k).m ≤ r.target * 1000 ∧
            (s.est.get k).window.length = 8 ∧ (s.est.get k).window.sum ≤ (p.rateFloor : Int) ∨
          r.kind = .cool ∧ (s.chan (bayChannel k 2)).faulted = false ∧
            (s.chan (bayChannel k 2)).value ≤ r.target))

/-! ## Arbiter -/

/-- R59 and R60: the conditions of eligibility. -/
def Obligations.EligibilityIsThePlantsAndTheArbiters : Prop :=
  ∀ (s : State) (k : Bay) (e : Entry),
    (e.resource = .steam → (s.eligible k e = true ↔ s.arb.steamRow = none ∧ s.steam.gen ≠ .tripped ∧
      s.water.reservoirLow = false ∧ s.arb.masks.get k = false ∧ s.arb.commissioning = .commissioned)) ∧
    (e.resource = .dry → (s.eligible k e = true ↔ (s.arb.slotA = none ∨ s.arb.slotB = none) ∧
      s.water.condensateFull = false ∧ s.arb.masks.get k = false ∧ s.arb.commissioning = .commissioned)) ∧
  ∀ (st : Settings) (r c : Channel) (w : WaterInventory), w.drainFault = true → (w.scan st r c).condensateFull = true

/-- One pass of the walk: it grants the first entry in ring order that is eligible and fits, and every eligible entry before it
did not fit, was not blocking and is passed over; it stalls at the first that is eligible, does not fit and is blocking, the eligible
ones before it passed over in the same way (R63, R64). An evaluation is passes from the head of the ring, one after each grant, until
one ends or stalls for good: a stall that the reheat shed can lift is granted after it, and the reheat upgrade follows a walk that
ends (R62, R63, R65, R87, R88). And what a grant does (R51, R55, R64, R66, R86, R92, R112, R119). -/
def Obligations.APassGrantsTheFirstEntryThatFits : Prop :=
  (∀ (s : State) (l : List Bay),
    (∀ k e passed, s.pass l [] = .grants k e passed →
      s.arb.requests.get k = some e ∧ s.eligible k e = true ∧ s.fits e = true ∧
      ∃ before after, l = before ++ k :: after ∧
        passed = before.filter (fun j => (s.arb.requests.get j).any (s.eligible j)) ∧
        ∀ j ∈ passed, ∀ f, s.arb.requests.get j = some f → s.fits f = false ∧ f.blocking = false) ∧
    (∀ k e passed, s.pass l [] = .stalls k e passed →
      s.arb.requests.get k = some e ∧ s.eligible k e = true ∧ s.fits e = false ∧ e.blocking = true ∧
      ∃ before after, l = before ++ k :: after ∧
        passed = before.filter (fun j => (s.arb.requests.get j).any (s.eligible j)) ∧
        ∀ j ∈ passed, ∀ f, s.arb.requests.get j = some f → s.fits f = false ∧ f.blocking = false) ∧
    (s.pass l [] = .ends → ∀ k ∈ l, ∀ e, s.arb.requests.get k = some e → s.eligible k e = true →
      s.fits e = false ∧ e.blocking = false)) ∧
  (∀ s : State, s.settle = (if s.arb.evalOwed then s.evaluate else s) ∧
    (∀ b, ({ s with arb := { s.arb with evalOwed := b } }).evaluate = s.evaluate) ∧
    (s.NothingOwed →
      (s.pass s.arb.ring [] = .ends → s.evaluate = State.upgradeReheat s.arb.ring s) ∧
      (∀ k e passed, s.pass s.arb.ring [] = .grants k e passed → s.evaluate = (s.grantInPass k e passed).evaluate) ∧
      ∀ k e passed, s.pass s.arb.ring [] = .stalls k e passed →
        (s.fitsUnheated e = true → s.evaluate =
          ((State.shedReheat (fun t => !t.fits e) s.arb.ring.reverse s).grantInPass k e passed).evaluate) ∧
        (s.fitsUnheated e = false → s.evaluate = s))) ∧
  ∀ (s : State) (k : Bay) (e : Entry) (passed : List Bay), passed.Nodup → s.arb.holdsDry k = false →
    (e.resource = .dry → s.arb.slotA = none ∨ s.arb.slotB = none) →
    s.GrantsInPass (s.grantInPass k e passed) k e passed

/-- The terms of the committed draw and the fit test, the latter also with every reheat status ON taken as PENDING (R61, R73 to R76,
R88); and the views of the grant table that the draw and the tests rest on (R51). -/
def Obligations.TheDrawIsTheSumOfItsTermsAndFitAddsOne : Prop :=
  (∀ (a : Arbiter) (comp : CompState), a.draw comp =
    a.settings.baseReserve + (if a.steamRow ≠ none then a.settings.steamDraw else 0) +
    (if a.slotA ≠ none ∨ a.slotB ≠ none ∨ comp = .running ∨ comp = .tail then a.settings.compressorDraw else 0) +
    (if ∃ k, a.slotA = some { bay := k, reheat := .on } then a.settings.reheaterDraw else 0) +
    (if ∃ k, a.slotB = some { bay := k, reheat := .on } then a.settings.reheaterDraw else 0)) ∧
  (∀ (s : State) (e : Entry),
    (e.resource = .steam → (s.fits e = true ↔ s.arb.committed + s.arb.settings.steamDraw ≤ s.arb.budget)) ∧
    (e.resource = .dry → (s.fits e = true ↔ s.arb.committed +
      (if s.arb.slotA ≠ none ∨ s.arb.slotB ≠ none ∨ s.dry.comp = .running ∨ s.dry.comp = .tail then 0
        else s.arb.settings.compressorDraw) ≤ s.arb.budget)) ∧
    (e.resource = .steam → s.addedDraw e = s.arb.settings.steamDraw) ∧
    (e.resource = .dry → s.addedDraw e =
      if s.arb.slotA ≠ none ∨ s.arb.slotB ≠ none ∨ s.dry.comp = .running ∨ s.dry.comp = .tail then 0
      else s.arb.settings.compressorDraw) ∧
    (s.fitsUnheated e = true ↔ s.arb.committed -
      ((if ∃ k, s.arb.slotA = some { bay := k, reheat := .on } then s.arb.settings.reheaterDraw else 0) +
       (if ∃ k, s.arb.slotB = some { bay := k, reheat := .on } then s.arb.settings.reheaterDraw else 0)) +
      s.addedDraw e ≤ s.arb.budget)) ∧
  ∀ (a : Arbiter) (k : Bay),
    (a.holdsSteam k = true ↔ a.steamRow = some k) ∧
    (a.holdsDry k = true ↔ a.slotA.map (·.bay) = some k ∨ a.slotB.map (·.bay) = some k) ∧
    a.reheatOf k = (if a.slotA.map (·.bay) = some k then a.slotA.map (·.reheat)
      else if a.slotB.map (·.bay) = some k then a.slotB.map (·.reheat) else none) ∧
    a.dryHolders = (if a.slotA = none then 0 else 1) + (if a.slotB = none then 0 else 1) ∧
    ∀ slot : Option DrySlot, Arbiter.slotWithout k slot = if slot.map (·.bay) = some k then none else slot

/-- After an evaluation either no waiting entry is both eligible and fitting, or the walk has stalled at a blocking entry that
would not fit even with every reheater off; it takes nothing away and owes nothing (R62, R63, R65, R88). The reheat upgrade turns
PENDING slots ON in ring order for as long as one more reheater fits, the reheat shed turns ON slots PENDING in the order given for as
long as it is asked to, and a reheat status reaches the table, the draw and the bay's own reheater alone (R29, R73, R81, R87,
R88, R121). -/
def Obligations.AnEvaluationLeavesNothingGrantable : Prop :=
  (∀ s : State, s.RingWhole → s.arb.committed = s.arb.draw s.dry.comp →
    (∀ k e, s.evaluate.arb.requests.get k = some e → s.evaluate.eligible k e = true → s.evaluate.fits e = false) ∨
    ∃ k e, s.evaluate.arb.requests.get k = some e ∧ s.evaluate.eligible k e = true ∧ s.evaluate.fits e = false ∧
      e.blocking = true ∧ s.evaluate.fitsUnheated e = false) ∧
  (∀ s : State, s.OnlyGrants s.evaluate ∧ s.evaluate.NothingOwed) ∧
  (∀ (s : State) (l pending : List Bay), l.Nodup → pending = l.filter (fun k => s.arb.reheatOf k = some .pending) →
    ∃ n ≤ pending.length,
      State.upgradeReheat l s = (pending.take n).foldl (fun t k => t.setReheat k .on) s ∧
      (∀ m < n, ((pending.take m).foldl (fun t k => t.setReheat k .on) s).reheatFits = true) ∧
      (n < pending.length → (State.upgradeReheat l s).reheatFits = false)) ∧
  (∀ (s : State) (more : State → Bool) (l lit : List Bay), l.Nodup → lit = l.filter (fun k => s.arb.reheatOf k = some .on) →
    ∃ n ≤ lit.length,
      State.shedReheat more l s = (lit.take n).foldl (fun t k => t.setReheat k .pending) s ∧
      (∀ m < n, more ((lit.take m).foldl (fun t k => t.setReheat k .pending) s) = true) ∧
      (n < lit.length → more (State.shedReheat more l s) = false)) ∧
  ∀ (s t : State) (k : Bay) (r : Reheat), t = s.setReheat k r →
    (s.reheatFits = true ↔ s.arb.committed + s.arb.settings.reheaterDraw ≤ s.arb.budget) ∧
    t = { s with arb := t.arb, dry := t.dry } ∧
    t.arb = { s.arb with
      slotA := if s.arb.slotA.map (·.bay) = some k then some { bay := k, reheat := r } else s.arb.slotA
      slotB := if s.arb.slotB.map (·.bay) = some k then some { bay := k, reheat := r } else s.arb.slotB
      committed := t.arb.draw s.dry.comp } ∧
    { t.dry with air := s.dry.air } = s.dry ∧ (∀ j, j ≠ k → t.air j = s.air j) ∧
    t.air k = { s.air k with
      reheater :=
        if t.arb.reheatOf k = some .on ∧ (s.air k).damper = .opened then
          if s.arb.reheatOf k = some .on then (s.air k).reheater
          else !(s.chan (bayChannel k 0)).faulted && decide ((s.chan (bayChannel k 0)).value < s.reheatTarget k - 5)
        else false }

/-- COMMISSION, SET_ARBITRATION, PROMOTE, MASK and UNMASK complete: each sets its one thing, an evaluation follows in the same
event, then OK; a refused operand or state changes nothing (R49, R56 to R58, R62). -/
def Obligations.TheArbiterCommandsSetOneThingAndEvaluate : Prop :=
  ∀ s : State, s.Accepts .service →
    (s.arb.commissioning = .commissioned → exec (.commission .service) s = .next (s.reply .service .wrongState)) ∧
    (s.arb.commissioning = .uncommissioned → exec (.commission .service) s =
      .next (({ s with arb := { s.arb with commissioning := .commissioned } }).evaluate.reply .service .ok)) ∧
    (∀ mode : Byte,
      (2 ≤ mode.toNat → exec (.setArbitration .service mode) s = .next (s.reply .service .badValue)) ∧
      (mode.toNat ≤ 1 → exec (.setArbitration .service mode) s = .next (({ s with arb :=
        { s.arb with mode := if mode.toNat = 0 then .rotating else .fixed } }).evaluate.reply .service .ok))) ∧
    ∀ bay : Byte,
      (4 ≤ bay.toNat →
        exec (.promote .service bay) s = .next (s.reply .service .badValue) ∧
        exec (.mask .service bay) s = .next (s.reply .service .badValue) ∧
        exec (.unmask .service bay) s = .next (s.reply .service .badValue)) ∧
      ∀ k : Bay, bay.toNat = k.val →
        exec (.promote .service bay) s = .next (({ s with arb :=
          { s.arb with ring := k :: s.arb.ring.filter (· ≠ k) } }).evaluate.reply .service .ok) ∧
        exec (.mask .service bay) s = .next (({ s with arb :=
          { s.arb with masks := s.arb.masks.set k true } }).evaluate.reply .service .ok) ∧
        exec (.unmask .service bay) s = .next (({ s with arb :=
          { s.arb with masks := s.arb.masks.set k false } }).evaluate.reply .service .ok)

/-- SET_PLANT completes: LOCKED once commissioned, BAD_VALUE for a record that fails a test, and otherwise the record is in force
whole, the committed draw is the new base reserve, and a running drain pump stops where no drain is fitted (R50, R73, R168,
R178). That it stops, and no check is made, where the record is taken before the row of a progress check that its tick has brought is the
model's choice (log 32). -/
def Obligations.SetPlantAppliesARecordWholeOrNotAtAll : Prop :=
  ∀ (record : List Byte) (s : State), s.Accepts .service → record.length = 40 →
    (s.arb.commissioning = .commissioned →
      exec (.setPlant .service record) s = .next (s.reply .service .locked)) ∧
    (s.arb.commissioning = .uncommissioned →
      (parseSettings record = none → exec (.setPlant .service record) s = .next (s.reply .service .badValue)) ∧
      ∀ st, parseSettings record = some st → s.NoGrantBefore →
        exec (.setPlant .service record) s =
          .next (({ s with
            arb := { s.arb with settings := st, committed := st.baseReserve }
            water := if s.water.pump = PumpState.running ∧ st.drainFitted = false then
                { s.water with pump := .off, drainStart := none, drainRun := none }
              else s.water }).reply .service .ok))

/-- SET_BUDGET completes: the budget is the operand clamped to 1000 to 7200; a draw within it sheds nothing and one evaluation
follows; a draw above it is shed stage by stage, lowest-ranked holder first, and no further than it takes: reheat, a compressor in
TAIL, the DRY grants, the STEAM grant; then SHED is raised once and one evaluation follows. A bay whose grant is shed waits anew with
a fresh request (R28, R68, R78, R80 to R85). -/
def Obligations.SetBudgetClampsShedsAndEvaluates : Prop :=
  (∀ (watts : Word16) (w : Nat) (s : State), s.Accepts .service → w = max 1000 (min 7200 watts.toNat) →
    (s.arb.committed ≤ w → exec (.setBudget .service watts) s =
      .next (({ s with arb := { s.arb with budget := w } }).evaluate.reply .service .ok)) ∧
    (w < s.arb.committed → s.PowerLawful → ∃ (n : Nat) (holders : List Bay) (a b c d t : State),
      a = State.shedReheat (fun x => decide (x.arb.budget < x.arb.committed)) s.arb.ring.reverse
        { s with arb := { s.arb with budget := w } } ∧
      b = (if w < a.arb.committed ∧ a.arb.slotA = none ∧ a.arb.slotB = none then
        { a with
          dry := a.dry.forcedStop a.arb.settings
          arb := { a.arb with committed := a.arb.draw (a.dry.forcedStop a.arb.settings).comp } } else a) ∧
      holders = s.arb.ring.reverse.filter (fun k => b.arb.holdsDry k) ∧
      c = (holders.take n).foldl (fun x k => x.revokeDry k) b ∧
      (∀ m < n, m < holders.length → w < ((holders.take m).foldl (fun x k => x.revokeDry k) b).arb.committed) ∧
      (n < holders.length → c.arb.committed ≤ w) ∧
      (c.arb.committed ≤ w ∨ c.arb.steamRow = none → d = c) ∧
      (w < c.arb.committed → ∀ h, c.arb.steamRow = some h → d = c.revokeSteam h) ∧
      d.arb.committed ≤ w ∧ t = (d.raisePlant .shed).evaluate ∧
      exec (.setBudget .service watts) s = .next (t.reply .service .ok) ∧
      t.stable = { s.stable with budget := w } ∧ t.arb.committed ≤ w ∧ ∀ q, (t.port q).notices.shed = true)) ∧
  ∀ (s : State) (k : Bay) (r : StepRecord), (s.bay k).currentStep = some r →
    (r.kind = .steam → s.arb.holdsSteam k = true → s.arb.holdsDry k = false →
      s.LetsGo (s.revokeSteam k) k (some (Entry.fresh .steam false)) (NoticeSet.addBay .grant k) ∧
      (s.revokeSteam k).arb.evalOwed = true ∧
      (s.revokeSteam k).bay k = { s.bay k with
        state := .await, waitElapsed := 0, overheatRun := 0, limitReached := false, waitReached := false }) ∧
    (r.kind = .dry → s.arb.holdsDry k = true →
      s.RevokesDry (s.revokeDry k) k (Entry.fresh .dry r.boost) ∧ (s.revokeDry k).arb.evalOwed = true)

/-- CLEAR_TRIP completes: it clears a generator trip where the boiler of the latest scan is below 1000 and not faulted, and the
drain fault latch where the pump is in FAULT; OK where it cleared either, after the evaluation that leaving TRIPPED calls for, else
WRONG_STATE (R62, R69, R104, R109, R167). -/
def Obligations.ClearTripClearsWhatItCan : Prop :=
  ∀ (gen drain : Bool) (s u : State), s.Accepts .service →
    gen = decide (s.steam.gen = .tripped ∧ (s.chan 16).value < 1000 ∧ (s.chan 16).faulted = false) →
    drain = decide (s.water.pump = .fault) →
    u = { s with
      steam := if gen then
          { s.steam with
            gen := .off
            fill := if s.steam.lowProbe = Probe.dry ∧ s.steam.fill = none then some 0 else s.steam.fill }
        else s.steam
      water := if drain then
          { s.water with pump := .off, drainStart := none, drainRun := none, drainFault := false }
        else s.water } →
    (gen = false → drain = false → exec (.clearTrip .service) s = .next (s.reply .service .wrongState)) ∧
    (gen = true → exec (.clearTrip .service) s = .next (u.evaluate.reply .service .ok)) ∧
    (gen = false → drain = true → s.NothingOwed → exec (.clearTrip .service) s = .next (u.reply .service .ok))

/-- BLOCKING_BY_AGE completes: an entry whose age has been reached is taken as blocking, and an evaluation follows where its
bypass count had not made it blocking already (R54, R62; that it then runs none is the model's reading, log 27). An entry is blocking
exactly while its bypass count is 3 or its age has reached the starvation age, which its age mark holds (R54; the mark is the model's
own, log 2). -/
def Obligations.AnAgedEntryBlocksAndIsWalked : Prop :=
  (∀ (k : Bay) (e : Entry) (u s : State), s.arb.requests.get k = some e → e.ageMark = .reached →
    u = { s with arb := { s.arb with requests := s.arb.requests.set k (some { e with ageMark := .blocking }) } } →
    (e.bypass < 3 → exec (.blockingByAge k) s = .next u.evaluate) ∧
    (3 ≤ e.bypass → exec (.blockingByAge k) s = .next u)) ∧
  ∀ e : Entry, e.blocking = true ↔ 3 ≤ e.bypass ∨ e.ageMark = .reached ∨ e.ageMark = .blocking

/-! ## Steam unit -/

/-- A STEAM grant at the steam unit: READY or HEATING by the boiler, the heater by its threshold, any warm hold ended, and from READY
to DELIVERING with the holder's valve open unless a dwell of another bay runs, which then runs on; and the end of a grant, by the state
it finds. Each case gives the whole unit (R92, R94, R96, R100 to R102, R107). That a grant's end taken before the row of a dry fire that
its tick has brought leaves no trip is the model's choice (log 31). -/
def Obligations.ASteamGrantHeatsOrDeliversAndItsEndWarms : Prop :=
  (∀ (u w : SteamUnit) (boiler : Int) (h : Bay), u.gen = .off ∨ u.gen = .warmHold →
    w = { u with
      warmHold := none, heater := decide (boiler < 1200), dryFire := if boiler < 1200 then u.dryFire else 0 } →
    (boiler < 1050 → u.startGrant boiler h = { w with gen := .heating }) ∧
    (1050 ≤ boiler →
      ((∃ b, u.dwellBay = some b ∧ b ≠ h ∧ u.dwellRemaining ≠ 0) → u.startGrant boiler h = { w with gen := .ready }) ∧
      (u.dwellBay = some h → u.startGrant boiler h = { w with
        gen := .delivering, valves := u.valves.set h true, dwellBay := none, dwellRemaining := 0 }) ∧
      (u.dwellBay = none ∨ u.dwellBay ≠ some h ∧ u.dwellRemaining = 0 → u.startGrant boiler h = { w with
        gen := .delivering, valves := u.valves.set h true }))) ∧
  ∀ (u w : SteamUnit) (st : Settings) (h : Bay),
    w = { u with
      gen := if st.warmHold = 0 then .off else .warmHold
      warmHold := if st.warmHold = 0 then none else some (st.warmHold * 100)
      heater := false, dryFire := 0 } →
    (u.gen = .heating ∨ u.gen = .ready → u.endGrant st h = w) ∧
    (u.gen = .delivering → u.endGrant st h = { w with
      valves := u.valves.set h false
      dwellBay := if st.dwell = 0 then u.dwellBay else some h
      dwellRemaining := if st.dwell = 0 then u.dwellRemaining else st.dwell * 100 }) ∧
    (u.gen = .tripped → u.endGrant st h = u)

/-- The steam unit's scan: the two trip tests first; without a trip the valve of a DELIVERING holder is modulated, the state
advances and the heater is regulated, and nothing else of the part changes; the unit reads the boiler, the holder's outlet humidity
and the target of its current step, and without a holder a scan changes nothing (R93, R94, R96, R98, R99, R106, R107). -/
def Obligations.TheSteamUnitTakesAScanInOrder : Prop :=
  (∀ s : State, s.steam.scanTrip (s.chan 16).faulted (s.chan 16).value = none →
    (s.arb.steamRow = none → s.scanSteam = s) ∧
    ∀ (h : Bay) (r : StepRecord), s.arb.steamRow = some h → (s.bay h).currentStep = some r →
      s.scanSteam = { s with
        steam := s.steam.scan h (s.chan 16).value (s.chan (bayChannel h 3)).faulted (s.chan (bayChannel h 3)).value r.target }) ∧
  ∀ (u : SteamUnit) (boiler rh target : Int) (bad : Bool) (h : Bay),
    (u.dwellHolds h = true ↔ ∃ b, u.dwellBay = some b ∧ b ≠ h ∧ u.dwellRemaining ≠ 0) ∧
    { u.scan h boiler bad rh target with
      gen := u.gen, heater := u.heater, valves := u.valves, dwellBay := u.dwellBay, dwellRemaining := u.dwellRemaining
      dryFire := u.dryFire } = u ∧
    (u.scanTrip bad boiler = if u.gen = .tripped then none else if bad then some .sensor
      else if 1400 < boiler then some .overtemp else none) ∧
    (u.gen = .delivering →
      (u.scan h boiler bad rh target).gen = .delivering ∧ (u.scan h boiler bad rh target).dwellBay = u.dwellBay ∧
      (u.scan h boiler bad rh target).dwellRemaining = u.dwellRemaining ∧
      (u.scan h boiler bad rh target).valves = u.valves.set h
        (if bad then false else if u.valves.get h then decide (rh < target) else decide (rh < target - 20))) ∧
    (u.gen = .ready →
      (u.scan h boiler bad rh target).gen = (if boiler < 1050 then .heating else .ready) ∧
      (u.scan h boiler bad rh target).valves = u.valves ∧ (u.scan h boiler bad rh target).dwellBay = u.dwellBay ∧
      (u.scan h boiler bad rh target).dwellRemaining = u.dwellRemaining) ∧
    (u.gen = .heating →
      (boiler < 1050 → (u.scan h boiler bad rh target).gen = .heating) ∧
      (1050 ≤ boiler → (u.scan h boiler bad rh target).gen =
        if u.dwellHolds h then .ready else .delivering) ∧
      (boiler < 1050 ∨ u.dwellHolds h = true → (u.scan h boiler bad rh target).valves = u.valves ∧
        (u.scan h boiler bad rh target).dwellBay = u.dwellBay ∧
        (u.scan h boiler bad rh target).dwellRemaining = u.dwellRemaining) ∧
      (1050 ≤ boiler → u.dwellHolds h = false → (u.scan h boiler bad rh target).valves = u.valves.set h true ∧
        (u.scan h boiler bad rh target).dwellBay = (if u.dwellBay = some h then none else u.dwellBay) ∧
        (u.scan h boiler bad rh target).dwellRemaining = if u.dwellBay = some h then 0 else u.dwellRemaining)) ∧
    (u.gen = .heating ∨ u.gen = .ready ∨ u.gen = .delivering →
      (u.scan h boiler bad rh target).heater =
        (if boiler < 1200 then true else if 1250 ≤ boiler then false else u.heater) ∧
      (u.scan h boiler bad rh target).dryFire = if 1250 ≤ boiler then 0 else u.dryFire) ∧
    (u.gen = .off ∨ u.gen = .warmHold ∨ u.gen = .tripped → u.scan h boiler bad rh target = u)

/-- FILL_TIMEOUT and DRY_FIRE complete, and a scan may trip too: the generator trips with its cause, everything at the steam unit is
off and closed, the STEAM grant is revoked with GRANT raised and its bay waits anew, the draw falls, TRIP is raised, and one evaluation
follows, which grants no STEAM (R62, R68, R69, R105 to R108). -/
def Obligations.ATripStopsTheSteamUnitAndRevokesItsGrant : Prop :=
  (∀ s : State, s.HoldersActive →
    (s.steam.fillDue = true → ∃ t, exec .fillTimeout s = .next t ∧ s.TripsTo .fillTimeout t) ∧
    (s.steam.dryFireDue = true → ∃ t, exec .dryFire s = .next t ∧ s.TripsTo .dryFire t) ∧
    ∀ cause, s.steam.scanTrip (s.chan boilerChannel).faulted (s.chan boilerChannel).value = some cause →
      s.TripsTo cause s.scanSteam) ∧
  (∀ u : SteamUnit, (u.fillDue = true ↔ u.gen ≠ .tripped ∧ ∃ n, u.fill = some n ∧ 2000 ≤ n) ∧
    (u.dryFireDue = true ↔ u.gen ≠ .tripped ∧ 500 ≤ u.dryFire ∧ u.fillDue = false)) ∧
  ∀ (s t : State) (cause : TripCause), s.TripsTo cause t →
    t.stable = s.stable ∧ t.arb.steamRow = none ∧ t.steam = s.steam.tripped s.arb.settings s.arb.steamRow cause ∧
    ∀ q, (t.port q).notices.trip = true

/-- DWELL_ELAPSED, WARM_HOLD_EXPIRY and the four probe rows complete: the dwell is cleared and a READY generator with a holder
delivers to it; the generator goes from WARM_HOLD to OFF; each probe event sets its probe, low DRY starting a fill unless one runs
or the generator is TRIPPED, low WET ending the dry-fire time, high WET ending the fill (R94, R101 to R104, R107). -/
def Obligations.TheSteamTimersElapseAndTheProbesAct : Prop :=
  (∀ s : State,
    (s.steam.dwellBay ≠ none → s.steam.dwellRemaining = 0 →
      (∀ h, s.arb.steamRow = some h → s.steam.gen = .ready → exec .dwellElapsed s = .next { s with steam :=
        { s.steam with gen := .delivering, valves := s.steam.valves.set h true, dwellBay := none,
                       dwellRemaining := 0 } }) ∧
      (s.arb.steamRow = none ∨ s.steam.gen ≠ .ready → exec .dwellElapsed s =
        .next { s with steam := { s.steam with dwellBay := none, dwellRemaining := 0 } })) ∧
    (s.steam.gen = .warmHold → s.steam.warmHold = some 0 →
      exec .warmHoldExpiry s = .next { s with steam := { s.steam with gen := .off, warmHold := none } })) ∧
  ∀ s : State,
    (s.steam.lowProbe = .wet → exec .lowProbeDry s = .next { s with
      inputs := { s.inputs with low := { level := false, run := 0 } }
      steam := { s.steam with
        lowProbe := .dry
        fill := if s.steam.fill = none ∧ s.steam.gen ≠ .tripped then some 0 else s.steam.fill } }) ∧
    (s.steam.lowProbe = .dry → exec .lowProbeWet s = .next { s with
      inputs := { s.inputs with low := { level := true, run := 0 } }
      steam := { s.steam with lowProbe := .wet, dryFire := 0 } }) ∧
    (s.steam.highProbe = .dry → exec .highProbeWet s = .next { s with
      inputs := { s.inputs with high := { level := true, run := 0 } }
      steam := { s.steam with highProbe := .wet, fill := none } }) ∧
    (s.steam.highProbe = .wet → exec .highProbeDry s = .next { s with
      inputs := { s.inputs with high := { level := false, run := 0 } }
      steam := { s.steam with highProbe := .dry } })

/-! ## Drying circuit -/

/-- MIN_OFF_EXPIRY, MIN_RUN_EXPIRY and DAMPER_TRAVEL_END complete: START_WAIT goes to RUNNING at the speed of its holders; TAIL goes to
OFF with min-off started, the draw falls and an evaluation follows; a damper moves by its table, and at its end stop, with reheat
ON in a damper now OPEN, the reheater starts as the latest scan says (R62, R113, R115, R117, R119 to R121). With them the tables of
the compressor at a grant, a release, a forced stop and a revocation, and the reheater's regulation at a scan complete (R112, R114,
R116, R122). That min-run is absent wherever the compressor has gone to OFF, at a release and a forced stop too, and in START_WAIT, is the
model's reading (log 13). That a last holder's end in START_WAIT taken before the row of a min-off run out takes the compressor to OFF
is the model's choice (log 31). -/
def Obligations.TheCompressorTimersAndTheDampersElapse : Prop :=
  (∀ s : State,
    (s.dry.comp = .startWait → s.dry.minOff = 0 → exec .minOffExpiry s = .next { s with
      dry := { s.dry with
        comp := .running
        speed := if s.arb.slotA ≠ none ∧ s.arb.slotB ≠ none then 100 else 60
        minRun := some (s.arb.settings.minRun * 100) }
      arb := { s.arb with committed := s.arb.draw .running } }) ∧
    (s.dry.comp = .tail → s.dry.minRun = some 0 → exec .minRunExpiry s = .next ({ s with
      dry := { s.dry with comp := .off, speed := 0, minRun := none, minOff := s.arb.settings.minOff * 100 }
      arb := { s.arb with committed := s.arb.draw .off } }).evaluate)) ∧
  (∀ a : AirBay,
    (a.damper = .closed ∨ a.damper = .closing → a.openDamper = { a with damper := .opening, travel := 600 } ) ∧
    (a.damper = .opening ∨ a.damper = .opened → a.openDamper = a ∧
      a.closeDamper = { a with damper := .closing, travel := 600 }) ∧
    (a.damper = .closed ∨ a.damper = .closing → a.closeDamper = a)) ∧
  (∀ (k : Bay) (s : State), (s.air k).travel = 0 →
    ((s.air k).damper = .closing → exec (.damperTravelEnd k) s = .next (s.mapAir k fun a =>
      { a with damper := .closed, reheater := false })) ∧
    ((s.air k).damper = .opening → exec (.damperTravelEnd k) s = .next (s.mapAir k fun a =>
      { a with
        damper := .opened
        reheater := decide (s.arb.reheatOf k = some .on ∧ (s.chan (bayChannel k 0)).faulted = false ∧
          (s.chan (bayChannel k 0)).value < s.reheatTarget k - 5) }))) ∧
  (∀ (st : Settings) (d stopped : DryingCircuit),
    stopped = { d with comp := .off, speed := 0, minRun := none, minOff := st.minOff * 100 } →
    d.onGrant st = (match d.comp with
      | .off => if d.minOff = 0 then { d with comp := .running, speed := 60, minRun := some (st.minRun * 100) }
          else { d with comp := .startWait, minRun := none }
      | .startWait => d
      | .running => { d with speed := 100 }
      | .tail => { d with comp := .running, speed := 60 }) ∧
    (∀ remaining, d.onRelease st remaining = match d.comp with
      | .running =>
        if remaining ≠ 0 then { d with speed := 60 }
        else if d.minRun = none ∨ d.minRun = some 0 then stopped else { d with comp := .tail, speed := 60 }
      | .startWait => if remaining ≠ 0 then d else { d with comp := .off, speed := 0, minRun := none }
      | .off | .tail => d) ∧
    d.forcedStop st = (match d.comp with
      | .running | .tail => stopped
      | .startWait => { d with comp := .off, speed := 0, minRun := none }
      | .off => d) ∧
    ∀ remaining, d.onRevoke st remaining = if remaining = 0 then d.forcedStop st else d.onRelease st remaining) ∧
  ∀ (k : Bay) (s : State) (inlet : Channel), inlet = s.chan (bayChannel k 0) →
    (∀ r, (s.bay k).currentStep = some r → s.reheatTarget k = 10 * (r.airTemp : Int)) ∧
    (s.reheatReady k = true ↔ s.arb.reheatOf k = some .on ∧ (s.air k).damper = .opened) ∧
    s.scanReheat k = (if s.reheatReady k then s.mapAir k fun a => { a with
        reheater :=
          if inlet.faulted then false
          else if inlet.value < s.reheatTarget k - 5 then true
          else if s.reheatTarget k + 5 ≤ inlet.value then false
          else a.reheater } else s) ∧
    s.scanDrying = (((s.scanReheat 0).scanReheat 1).scanReheat 2).scanReheat 3

/-- TACHOMETER_EDGE completes: discarded with the fan off, taken as the reference where there is none, ignored below a period of
200 and accepted from there, modulo 65536 (R125 to R127). A fan commanded off has its record cleared, one commanded on from off starts
its spin-up of 300 ticks with no reference, period or silence, and a change between two levels above 0 leaves the record (R126). An
accepted edge taken before the report of a stall leaves none to make, and a fan commanded off leaves it due (R47, R128; the mark
`reportDue` is the model's own, log 28). -/
def Obligations.ATachometerEdgeIsJudgedByItsReference : Prop :=
  (∀ (k : Bay) (f : AirBay → AirBay) (s : State),
    s.mapAir k f = { s with dry := { s.dry with air := s.dry.air.set k (f (s.air k)) } }) ∧
  (∀ (a : AirBay) (level : Nat),
    (a.fanLevel = 0 → a.setFan 0 = a) ∧
    (a.fanLevel ≠ 0 → a.setFan 0 = { a with
      fanLevel := 0, tacho := { reference := none, period := none, silence := 0, spinUp := none, stalled := false } }) ∧
    (level ≠ 0 → a.fanLevel = 0 → a.setFan level = { a with
      fanLevel := level
      tacho := { reference := none, period := none, silence := 0, spinUp := some 300, stalled := false } }) ∧
    (level ≠ 0 → a.fanLevel ≠ 0 → a.setFan level = { a with fanLevel := level })) ∧
  ∀ (k : Bay) (capture : Word16) (s : State),
    ((s.air k).fanLevel = 0 → exec (.tachometerEdge k capture) s = .next s) ∧
    ((s.air k).fanLevel ≠ 0 →
      ((s.air k).tacho.reference = none → exec (.tachometerEdge k capture) s = .next (s.mapAir k fun a =>
        { a with
          reportDue := false
          tacho := { a.tacho with reference := some capture, period := none, silence := 0, stalled := false } })) ∧
      ∀ (ref : Word16) (period : Nat), (s.air k).tacho.reference = some ref →
        period = (capture.toNat + 65536 - ref.toNat) % 65536 →
        (period < 200 → exec (.tachometerEdge k capture) s = .next s) ∧
        (200 ≤ period → exec (.tachometerEdge k capture) s = .next (s.mapAir k fun a =>
          { a with
            reportDue := false
            tacho := { a.tacho with
              reference := some capture, period := some period, silence := 0, stalled := false } })))

/-- SILENCE_TIMEOUT and SPIN_UP_ELAPSED complete: silence at 50 makes P invalid and drops the reference; a fan whose spin-up has elapsed
is then STALLED, and a report halts its bay with FAN_STALL where that is ACTIVE and has no effect otherwise (R43, R47, R126 to
R128; the report in the event of the two rows is the model's choice, log 12). A report that the tick has brought finds the bay as a step
end or a door opening taken before it has left it, ACTIVE in the next step or not ACTIVE, be the fan off by then or not (R47; its
mark is the model's own, log 28). -/
def Obligations.ASilentFanMayStallAndHaltItsBay : Prop :=
  (∀ (k : Bay) (s u : State), s.NothingOwed → (s.air k).fanLevel ≠ 0 → (s.air k).tacho.silence = 50 →
    ((s.air k).tacho.reference ≠ none → ((s.air k).tacho.spinUp ≠ some 0 ∨ (s.air k).tacho.stalled = true) →
      (s.air k).reportDue = false → exec (.silenceTimeout k) s = .next (s.mapAir k fun a =>
        { a with tacho := { a.tacho with reference := none, period := none } })) ∧
    ∀ i, (i = .silenceTimeout k ∧ u = (s.mapAir k fun a => { a with
          reportDue := false, tacho := { a.tacho with reference := none, period := none, stalled := true } }) ∨
        i = .spinUpElapsed k ∧ u = (s.mapAir k fun a => { a with
          reportDue := false, tacho := { a.tacho with stalled := true } })) →
      (s.air k).tacho.spinUp = some 0 → (s.air k).tacho.stalled = false →
      ((s.bay k).state ≠ .active → exec i s = .next u) ∧
      ((s.bay k).state = .active → ∃ t, exec i s = .next t ∧
        u.LetsGoThenSettles t k none (NoticeSet.addBay .halt k) { s.bay k with
          state := .halted, outcome := .halted, fault := some .fanStall, overheatRun := 0, limitReached := false,
          waitReached := false } (s.claims k))) ∧
  (∀ (k : Bay) (s u : State), s.NothingOwed → (s.air k).reportDue = true →
    (s.air k).fanLevel = 0 ∨ (s.air k).tacho.silence < 50 → u = (s.mapAir k fun a => { a with reportDue := false }) →
    ∀ i, i = .silenceTimeout k ∨ i = .spinUpElapsed k →
      ((s.bay k).state ≠ .active → exec i s = .next u) ∧
      ((s.bay k).state = .active → ∃ t, exec i s = .next t ∧
        u.LetsGoThenSettles t k none (NoticeSet.addBay .halt k) { s.bay k with
          state := .halted, outcome := .halted, fault := some .fanStall, overheatRun := 0, limitReached := false,
          waitReached := false } (s.claims k))) ∧
  ∀ (k : Bay) (s : State),
    ((s.air k).tacho.stalled = false ∨ (s.bay k).state ≠ .active → s.reportStall k = s) ∧
    ((s.air k).tacho.stalled = true → (s.bay k).state = .active →
      s.LetsGo (s.reportStall k) k none (NoticeSet.addBay .halt k) ∧
      (s.reportStall k).arb.evalOwed = (s.arb.evalOwed || s.claims k) ∧
      (s.reportStall k).bay k = { s.bay k with
        state := .halted, outcome := .halted, fault := some .fanStall, overheatRun := 0, limitReached := false,
        waitReached := false })

/-! ## Scanner and estimators -/

/-- SET_TRIM, SCAN_START and CONVERSION_END complete: a clamped trim is set and nothing else; a scan starts with latched trims on
its phase; each code is held and the next channel follows (R131, R132, R139). -/
def Obligations.TheScannerTakesTrimsStartsAndCodes : Prop :=
  ∀ s : State,
    (s.Accepts .service → ∀ (channel trim : Byte),
      (19 ≤ channel.toNat → exec (.setTrim .service channel trim) s = .next (s.reply .service .badValue)) ∧
      ∀ n : ChannelNo, channel.toNat = n.val → exec (.setTrim .service channel trim) s =
        .next ((s.withChannel n fun c => { c with trim := max (-63) (min 63 trim.toInt) }).reply .service .ok)) ∧
    (s.scan.phase = 200 → exec .scanStart s = .next { s with scan := { s.scan with
      phase := 0
      converting := some 0
      channels := s.scan.channels.map fun c => { c with latched := c.trim, inFlight := none } } }) ∧
    ∀ (code : Code) (n : ChannelNo) (h : n.val + 1 < 19), s.scan.converting = some n →
      exec (.conversionEnd code) s = .next (({ s with scan :=
        { s.scan with converting := some ⟨n.val + 1, h⟩ } }).withChannel n fun c => { c with inFlight := some code })

/-- SCAN_COMPLETE completes, and so does the CONVERSION_END of channel 18: what the last tick has brought is settled first, the
progress check among it (R165; the rows and their order are log 3); every channel is judged and converted from its code, which is
then absent (the model's choice, log 29), the count goes on from 65535 to 1, the scan state is IDLE; the consumers then take the set, in
the order that log 5 chooses, and change nothing of the scanner (R132 to R137). A code is a rail at 8 or below and at 4087 or above; three rails in a row fault a channel, three others
in a row clear it, and a code of the other kind breaks the run (R135). -/
def Obligations.AScanCompletesAndIsDelivered : Prop :=
  (∀ (code : Code) (codes : ChannelNo → Code) (i : Instr) (s d u : State),
    i = .scanComplete code ∨ i = .conversionEnd code → s.scan.converting = some 18 → codes 18 = code →
    (∀ n : ChannelNo, n ≠ 18 → s.scan.channels[n].inFlight = some (codes n)) →
    s.RunsTo s.expiryRows d →
    u = { d with scan := { s.scan with
      converting := none
      count := if 65535 ≤ s.scan.count then 1 else s.scan.count + 1
      channels := Vector.ofFn fun n =>
        { s.scan.channels[n] with
          raw := codes n
          inFlight := none
          value := if isRail (codes n) then s.scan.channels[n].value
            else convertCode (classOf n) (codes n) s.scan.channels[n].latched
          faulted := (faultUpdate s.scan.channels[n].faulted s.scan.channels[n].run (isRail (codes n))).1
          run := (faultUpdate s.scan.channels[n].faulted s.scan.channels[n].run (isRail (codes n))).2 } } } →
    ∃ t, exec i s = .next t ∧ t.scan = u.scan ∧ t.library = s.library ∧ t.inputs = d.inputs ∧
      t.counter = s.counter ∧ t.arb.budget = s.arb.budget ∧ t.arb.settings = s.arb.settings ∧
      (∀ q, (t.port q).bus = (s.port q).bus) ∧
      t = ((((u.scanSteam.scanDrying.scanWater).scanOneBay 0).scanOneBay 1).scanOneBay 2).scanOneBay 3) ∧
  (∀ s : State, (∃ d, s.RunsTo s.expiryRows d) ∧ (s.NothingDue → s.RunsTo s.expiryRows s)) ∧
  (∀ c : Code, isRail c = true ↔ c.toNat ≤ 8 ∨ 4087 ≤ c.toNat) ∧
  ∀ (faulted : Bool) (run : Nat),
    faultUpdate faulted run faulted = (faulted, 0) ∧
    (run < 2 → faultUpdate faulted run (!faulted) = (faulted, run + 1)) ∧
    (2 ≤ run → faultUpdate faulted run (!faulted) = (!faulted, 0))

/-- R134: the conversion of a code, class by class, with the ends of each range. -/
def Obligations.ACodeIsConvertedByTheFormulaOfItsClass : Prop :=
  (∀ n : ChannelNo, classOf n = if n.val = 16 then .boilerTemperature else if n.val = 17 ∨ n.val = 18 then .level
    else if n.val % 4 = 0 ∨ n.val % 4 = 2 then .bayTemperature else .humidity) ∧
  convertCode .humidity 4080 40 = 1000 ∧
  ∀ (code : Code) (trim x : Int), x = max 0 (min 4095 ((code.toNat : Int) + trim)) →
    convertCode .bayTemperature code trim = (x * 1000 + 2047) / 4095 - 100 ∧
    convertCode .humidity code trim = (x * 1000 + 2047) / 4095 ∧
    convertCode .boilerTemperature code trim = (x * 2000 + 2047) / 4095 ∧
    convertCode .level code trim = (x * 1000 + 2047) / 4095 ∧
    (x = 0 → convertCode .bayTemperature code trim = -100 ∧ convertCode .humidity code trim = 0 ∧
      convertCode .boilerTemperature code trim = 0 ∧ convertCode .level code trim = 0) ∧
    (x = 4095 → convertCode .bayTemperature code trim = 900 ∧ convertCode .humidity code trim = 1000 ∧
      convertCode .boilerTemperature code trim = 2000 ∧ convertCode .level code trim = 1000) ∧
    -100 ≤ convertCode .bayTemperature code trim ∧ convertCode .bayTemperature code trim ≤ 900 ∧
    0 ≤ convertCode .humidity code trim ∧ convertCode .humidity code trim ≤ 1000 ∧
    0 ≤ convertCode .boilerTemperature code trim ∧ convertCode .boilerTemperature code trim ≤ 2000 ∧
    0 ≤ convertCode .level code trim ∧ convertCode .level code trim ≤ 1000

/-- R146: the saturation density from its table. -/
def Obligations.DensityIsInterpolatedInTheTable : Prop :=
  ∀ (entries : List Nat), entries =
      [2140, 3240, 4850, 6800, 9400, 12830, 17300, 23050, 30380, 39630, 51190,
       65500, 83060, 104400, 130200, 161200, 198100, 241800, 293300, 353500, 423600] →
    (∀ (t : Int) (i f : Nat), (i : Int) = min 19 ((max (-100) (min 900 t) + 100) / 50) →
      (f : Int) = max (-100) (min 900 t) + 100 - 50 * i →
      f ≤ 50 ∧ (f = 50 ↔ 900 ≤ t) ∧ (f = 0 → density t = entries.getD i 0) ∧
      density t = entries.getD i 0 + ((entries.getD (i + 1) 0 - entries.getD i 0) * f + 25) / 50) ∧
    density 900 = 423600 ∧ density 500 = 83060 ∧ (∀ t, 2140 ≤ density t ∧ density t ≤ 423600) ∧
    ∀ t u : Int, -100 ≤ t → t < u → u ≤ 900 → density t < density u

/-- Humidity, air volume and extraction of one sample, with their ranges; and an estimator's part of a scan complete, its sample used
where the four conditions hold and refused where one fails (R143, R144, R147 to R152). -/
def Obligations.ASampleIsUsedOrRefused : Prop :=
  ((∀ (t rh : Int), (absHumidity t rh : Int) = (max 0 (min 1000 rh) * density t + 500) / 1000 ∧
    absHumidity t 1000 = density t ∧ absHumidity t 0 = 0 ∧ absHumidity t rh ≤ 423600) ∧
  (∀ (duct period : Nat), 0 < period →
    airVolume duct period = min 400000 ((duct * 2000000 + period / 2) / period)) ∧
  airVolume 1 65535 = 31 ∧ airVolume 2000 200 = 400000 ∧
  (∀ (ahIn ahOut volume : Nat),
    extraction ahIn ahOut volume = if ahIn ≤ ahOut then ((((ahOut - ahIn) * volume + 500000) / 1000000 : Nat) : Int)
      else -((((ahIn - ahOut) * volume + 500000) / 1000000 : Nat) : Int)) ∧
  (∀ (ahIn ahOut volume : Nat), ahIn ≤ 423600 → ahOut ≤ 423600 → volume ≤ 400000 →
    -169440 ≤ extraction ahIn ahOut volume ∧ extraction ahIn ahOut volume ≤ 169440) ∧
  ∀ (inT inRh outT outRh : Int) (duct period : Nat), sampleExtraction inT inRh outT outRh duct period =
    extraction (absHumidity inT inRh) (absHumidity outT outRh) (airVolume duct period)) ∧
  (∀ (k : Bay) (f : Estimator → Estimator) (s : State), s.mapEst k f = { s with est := s.est.set k (f (s.est.get k)) }) ∧
  ∀ (k : Bay) (good : Bool) (s : State),
    good = decide (((s.bay k).state ∈ [.await, .active] ∨
        (s.bay k).state = .halted ∧ (s.bay k).purgeRemaining ≠ none) ∧ 0 < (s.air k).fanLevel ∧
      ∀ j : Fin 4, (s.chan (bayChannel k j)).faulted = false) →
    (∀ (period : Nat) (w : Int), good = true → (s.air k).tacho.period = some period →
      w = sampleExtraction (s.chan (bayChannel k 0)).value (s.chan (bayChannel k 1)).value
        (s.chan (bayChannel k 2)).value (s.chan (bayChannel k 3)).value (s.arb.settings.duct.get k) period →
      s.scanEstimator k = s.mapEst k fun e =>
        { m := max 0 (min 8000000 (e.m - w))
          window := (if 8 ≤ e.window.length then e.window.tail else e.window) ++ [w]
          valid := true }) ∧
    (good = false ∨ (s.air k).tacho.period = none →
      s.scanEstimator k = s.mapEst k fun e => { e with window := [], valid := false })

/-! ## Water -/

/-- The water inventory's part of a scan complete: both levels, both latches and the pump; and what it reports: WATER_LOW where the low
latch sets, TANK_FULL where the full latch sets, with both DRY grants revoked and the compressor stopped at once, and one
evaluation where either latch changed (R70, R71, R159 to R164). -/
def Obligations.TheWaterInventoryJudgesItsLatchesAndPump : Prop :=
  (∀ (st : Settings) (r c : Channel) (w v : WaterInventory), v = w.scan st r c →
    v.reservoirLevel = r.value ∧ v.condensateLevel = c.value ∧ v.drainFault = w.drainFault ∧
    (v.reservoirLow = true ↔ r.faulted = true ∨
      r.value < (if w.reservoirLow then (st.reservoirResume : Int) else st.reservoirLow)) ∧
    (v.condensateFull = true ↔ w.drainFault = true ∨ c.faulted = true ∨
      (if w.condensateFull then (st.condensateResume : Int) else st.condensateFull) ≤ c.value) ∧
    (st.drainFitted = false ∨ c.faulted = true ∨ w.pump = .fault →
      v.pump = w.pump ∧ v.drainStart = w.drainStart ∧ v.drainRun = w.drainRun) ∧
    (st.drainFitted = true → c.faulted = false →
      (w.pump = .off → (st.drainOn : Int) ≤ c.value →
        v.pump = .running ∧ v.drainStart = some c.value ∧ v.drainRun = some 0) ∧
      (w.pump = .off → c.value < st.drainOn → v.pump = .off) ∧
      (w.pump = .running → c.value ≤ st.drainOff → v.pump = .off ∧ v.drainStart = none ∧ v.drainRun = none) ∧
      (w.pump = .running → (st.drainOff : Int) < c.value →
        v.pump = .running ∧ v.drainStart = w.drainStart ∧ v.drainRun = w.drainRun))) ∧
  ∀ (s a b c d : State) (v : WaterInventory),
    v = s.water.scan s.arb.settings (s.chan reservoirChannel) (s.chan condensateChannel) →
    (v.reservoirLow = s.water.reservoirLow → v.condensateFull = s.water.condensateFull → s.NothingOwed →
      s.scanWater = { s with water := v }) ∧
    (v.reservoirLow ≠ s.water.reservoirLow ∨ v.condensateFull ≠ s.water.condensateFull →
      a = (if v.reservoirLow = true ∧ s.water.reservoirLow = false then { s with water := v }.raisePlant .waterLow
        else { s with water := v }) →
      (v.condensateFull = false ∨ s.water.condensateFull = true → s.scanWater = a.evaluate) ∧
      (v.condensateFull = true → s.water.condensateFull = false →
        b = (match s.arb.slotA with
          | some slot => a.revokeDry slot.bay
          | none => a) →
        c = (match s.arb.slotB with
          | some slot => b.revokeDry slot.bay
          | none => b) →
        d = { c with
          dry := c.dry.forcedStop c.arb.settings
          arb := { c.arb with committed := c.arb.draw (c.dry.forcedStop c.arb.settings).comp } } →
        s.scanWater = (d.raisePlant .tankFull).evaluate ∧
        ((∀ x ∈ s.arb.slotA, ∀ y ∈ s.arb.slotB, x.bay ≠ y.bay) → d.arb.slotA = none ∧ d.arb.slotB = none ∧ d.dry.comp = .off)))

/-- DRAIN_PROGRESS_CHECK completes: passed, it starts a new window; failed, the drain fault latch sets, the pump stops in FAULT,
TRIP is raised, and a full latch that this forces ends all drying: both DRY grants are revoked, the compressor stops at once, TANK_FULL
is raised and one evaluation follows (R62, R68, R71, R163, R165, R166). What a revocation leaves at its bay is in the statement of
SET_BUDGET. -/
def Obligations.TheProgressCheckPassesOrFaults : Prop :=
  ∀ (start : Int) (s a b c d : State), s.NothingOwed → s.water.pump = .running → s.water.drainRun = some 12000 →
    s.water.drainStart = some start →
    (s.water.condensateLevel ≤ start - 50 → exec .drainProgressCheck s = .next { s with water :=
      { s.water with drainStart := some s.water.condensateLevel, drainRun := some 0 } }) ∧
    (start - 50 < s.water.condensateLevel → ∃ t : State, exec .drainProgressCheck s = .next t ∧
      t.water = { s.water with
        pump := .fault, drainStart := none, drainRun := none, drainFault := true, condensateFull := true } ∧
      { t.stable with water := s.water } = s.stable ∧ (∀ q, (t.port q).notices.trip = true) ∧
      (s.water.condensateFull = true → { t with water := s.water, ports := s.ports } = s ∧
        t = ({ s with water := t.water }).raisePlant .trip ∧
        ∀ q, (t.port q).bus = (s.port q).bus ∧ (t.port q).notices = { (s.port q).notices with trip := true }) ∧
      (s.water.condensateFull = false →
        (t.arb.slotA = none ∧ t.arb.slotB = none ∧ t.dry.comp = .off ∧ ∀ q, (t.port q).notices.tankFull = true) ∧
        (a = { s with water := t.water } →
          b = (match s.arb.slotA with
            | some slot => a.revokeDry slot.bay
            | none => a) →
          c = (match s.arb.slotB with
            | some slot => b.revokeDry slot.bay
            | none => b) →
          d = { c with
            dry := c.dry.forcedStop c.arb.settings
            arb := { c.arb with committed := c.arb.draw (c.dry.forcedStop c.arb.settings).comp } } →
          t = ((d.raisePlant .tankFull).raisePlant .trip).evaluate)))

/-! ## Time -/

/-- TICK completes: what the tick before has brought and no row has taken is settled first, expiries and then a scan start, in the
order of log 3; then every running timer counts one tick from the state so left, the debounced inputs are sampled, and the rest of the
part is as it was; each stalled fan is then reported (R26, R30, R45, R53, R54, R101, R102, R104, R107, R113, R115, R120, R126 to R128,
R131, R165). A STEAM step counts with its grant held, the generator DELIVERING and the boiler at 105.0 °C or above, a DRY step from the
tick on which its damper reports OPEN with the compressor RUNNING, and any other step always (R30, R118; that the generator and the
compressor are taken as that tick leaves them is the model's reading, log 25). A debounce is complete at a run of five ticks (R18,
R103), and a tick whose row carries no levels samples those seen last. A fan that the counts find stalled for the first time has its
report due, handed over by the rows that end its timers (R127, R128; the mark is the model's own, log 28). -/
def Obligations.ATickCountsEveryRunningTimerOnce : Prop :=
  (∀ (lines : Option Lines) (s d : State), s.NothingOwed → s.RunsTo (s.expiryRows ++ [.scanStart]) d →
    ∃ c : State,
      exec (.tick lines) s = .next
        ((((c.reportStall 0).reportStall 1).reportStall 2).reportStall 3).settle ∧
      ((∀ k : Bay, (d.air k).tacho.stalled = false) → exec (.tick lines) s = .next c) ∧
      (∀ k : Bay,
        ((d.bay k).state = .active → d.counts k = true → c.bay k = { d.bay k with
          stepRemaining := (d.bay k).stepRemaining - 1, limitReached := decide ((d.bay k).stepRemaining ≤ 1) }) ∧
        ((d.bay k).state = .active → d.counts k = false → c.bay k = d.bay k) ∧
        ((d.bay k).state = .await → c.bay k = { d.bay k with
          waitElapsed := (d.bay k).waitElapsed + 1
          waitReached := decide (d.arb.settings.waitTimeout * 100 ≤ (d.bay k).waitElapsed + 1) }) ∧
        ((d.bay k).state = .halted → c.bay k = { d.bay k with purgeRemaining :=
          if (d.bay k).door = .shut then (d.bay k).purgeRemaining.map (· - 1) else (d.bay k).purgeRemaining }) ∧
        ((d.bay k).state ∈ [.idle, .loaded, .held, .finished] → c.bay k = d.bay k)) ∧
      (∀ k : Bay, c.arb.requests.get k = (d.arb.requests.get k).map fun e => { e with
        age := e.age + 1
        ageMark := if e.ageMark = .young ∧ d.arb.settings.starvationAge * 100 ≤ e.age + 1 then .reached
          else e.ageMark }) ∧
      { c.arb with requests := d.arb.requests } = d.arb ∧
      c.steam = { d.steam with
        dwellRemaining := d.steam.dwellRemaining - 1
        warmHold := if d.steam.gen = .warmHold then d.steam.warmHold.map (· - 1) else d.steam.warmHold
        fill := d.steam.fill.map fun n => min 2000 (n + 1)
        dryFire := if d.steam.heater = true ∧ d.steam.lowProbe = .dry then min 500 (d.steam.dryFire + 1) else 0 } ∧
      c.dry.comp = d.dry.comp ∧ c.dry.speed = d.dry.speed ∧ c.dry.minOff = d.dry.minOff - 1 ∧
      c.dry.minRun = (if d.dry.comp = .running ∨ d.dry.comp = .tail then d.dry.minRun.map (· - 1) else d.dry.minRun) ∧
      (∀ k : Bay, c.air k = { d.air k with
        travel := if (d.air k).damper = .opening ∨ (d.air k).damper = .closing then (d.air k).travel - 1
          else (d.air k).travel
        tacho := if (d.air k).fanLevel = 0 then (d.air k).tacho
          else { (d.air k).tacho with
            silence := min 50 ((d.air k).tacho.silence + 1), spinUp := (d.air k).tacho.spinUp.map (· - 1) }
        reportDue := decide ((d.air k).fanLevel ≠ 0 ∧ (d.air k).tacho.spinUp.map (· - 1) = some 0 ∧
          50 ≤ (d.air k).tacho.silence + 1 ∧ (d.air k).tacho.stalled = false) }) ∧
      c.scan = { d.scan with phase := min 200 (d.scan.phase + 1) } ∧
      c.water = { d.water with drainRun :=
        if d.water.pump = .running then d.water.drainRun.map fun n => min 12000 (n + 1) else d.water.drainRun } ∧
      c.counter = d.counter + 10000 ∧ c.library = d.library ∧ c.ports = d.ports ∧ c.est = d.est ∧
      c.resetCause = d.resetCause ∧ c.addrHigh = d.addrHigh ∧
      ∀ l : Lines, l = lines.getD d.linesSeen →
        (∀ k : Bay, c.inputs.door.get k =
          { level := l.doorHigh.get k
            run := if l.doorHigh.get k = decide ((d.bay k).door = .opened) then 0
              else min 5 ((d.inputs.door.get k).run + 1) }) ∧
        c.inputs.low =
          { level := l.lowWet
            run := if l.lowWet = decide (d.steam.lowProbe = .wet) then 0 else min 5 (d.inputs.low.run + 1) } ∧
        c.inputs.high =
          { level := l.highWet
            run := if l.highWet = decide (d.steam.highProbe = .wet) then 0 else min 5 (d.inputs.high.run + 1) }) ∧
  (∀ s : State, (∃ d, s.RunsTo (s.expiryRows ++ [.scanStart]) d) ∧
    (s.NothingDue → s.RunsTo (s.expiryRows ++ [.scanStart]) s)) ∧
  (∀ (s : State) (k : Bay), s.linesSeen.doorHigh.get k = (s.inputs.door.get k).level ∧
    s.linesSeen.lowWet = s.inputs.low.level ∧ s.linesSeen.highWet = s.inputs.high.level) ∧
  (∀ d : Debounce, d.complete = true ↔ 5 ≤ d.run) ∧
  ∀ (s : State) (k : Bay) (r : StepRecord), (s.bay k).currentStep = some r →
    (r.kind = .steam → (s.counts k = true ↔ s.arb.steamRow = some k ∧ 1050 ≤ (s.chan 16).value ∧
      (s.steam.gen = .delivering ∨
        s.steam.gen = .ready ∧ s.steam.dwellBay.isSome = true ∧ s.steam.dwellRemaining ≤ 1))) ∧
    (r.kind = .dry → (s.counts k = true ↔
      ((s.air k).damper = .opened ∨ (s.air k).damper = .opening ∧ (s.air k).travel ≤ 1) ∧
      (s.dry.comp = .running ∨ s.dry.comp = .startWait ∧ s.dry.minOff ≤ 1))) ∧
    (r.kind ∈ [.settle, .refresh, .cool] → s.counts k = true)

/-- A row of time that comes while its own timer has not run out, whatever else is due, or of an input already in that state, has no
effect (the model's choice, log 2 and log 7). When each timer has run out: the fill at 2000 ticks and the dry-fire time at 500 outside
TRIPPED, the dry fire only where no fill timeout is due (the model's reading, log 15), dwell, warm hold and damper travel at 0, min-off
at 0 under START_WAIT and min-run under TAIL, the progress check at 12,000 ticks, the scan phase at 200, silence at 50 with something
left to invalidate or to find, step limit, wait timeout, a stall's report and an entry's age by their marks, the purge at 0 (R26, R31,
R45, R54, R101, R102, R105, R107, R113, R115, R120, R126, R127, R131, R165). -/
def Obligations.AnEventThatIsNotDueChangesNothing : Prop :=
  (∀ (u : SteamUnit) (d : DryingCircuit) (w : WaterInventory) (c : Scanner) (a : AirBay) (b : BayContext),
    (u.fillDue = true ↔ (∃ n, u.fill = some n ∧ 2000 ≤ n) ∧ u.gen ≠ .tripped) ∧
    (u.dryFireDue = true ↔ 500 ≤ u.dryFire ∧ u.gen ≠ .tripped ∧ u.fillDue = false) ∧
    (u.dwellDue = true ↔ u.dwellBay ≠ none ∧ u.dwellRemaining = 0) ∧
    (u.warmHoldDue = true ↔ u.gen = .warmHold ∧ u.warmHold = some 0) ∧
    (d.minOffDue = true ↔ d.comp = .startWait ∧ d.minOff = 0) ∧ (d.minRunDue = true ↔ d.comp = .tail ∧ d.minRun = some 0) ∧
    (w.checkDue = true ↔ w.pump = .running ∧ w.drainRun = some 12000) ∧ (c.startDue = true ↔ 200 ≤ c.phase) ∧
    (a.travelDue = true ↔ (a.damper = .opening ∨ a.damper = .closing) ∧ a.travel = 0) ∧
    (a.spinUpDue = true ↔ a.fanLevel ≠ 0 ∧ a.tacho.spinUp = some 0 ∧ 50 ≤ a.tacho.silence ∧ a.tacho.stalled = false) ∧
    (a.silenceDue = true ↔ a.fanLevel ≠ 0 ∧ 50 ≤ a.tacho.silence ∧
      (a.tacho.period ≠ none ∨ a.tacho.reference ≠ none ∨ a.tacho.spinUp = some 0 ∧ a.tacho.stalled = false)) ∧
    (b.limitDue = true ↔ b.state = .active ∧ b.limitReached = true) ∧
    (b.waitDue = true ↔ b.state = .await ∧ b.waitReached = true) ∧
    (b.purgeDue = true ↔ b.state = .halted ∧ b.purgeRemaining = some 0)) ∧
  ∀ s : State,
    (s.steam.fillDue = false → exec .fillTimeout s = .next s) ∧
    (s.steam.dryFireDue = false → exec .dryFire s = .next s) ∧
    (s.steam.dwellDue = false → exec .dwellElapsed s = .next s) ∧
    (s.steam.warmHoldDue = false → exec .warmHoldExpiry s = .next s) ∧
    (s.dry.minOffDue = false → exec .minOffExpiry s = .next s) ∧
    (s.dry.minRunDue = false → exec .minRunExpiry s = .next s) ∧
    (s.water.checkDue = false → exec .drainProgressCheck s = .next s) ∧
    (s.scan.startDue = false → exec .scanStart s = .next s) ∧
    (∀ k : Bay,
      ((s.air k).travelDue = false → exec (.damperTravelEnd k) s = .next s) ∧
      ((s.air k).reportDue = false →
        ((s.air k).silenceDue = false → exec (.silenceTimeout k) s = .next s) ∧
        ((s.air k).spinUpDue = false → exec (.spinUpElapsed k) s = .next s)) ∧
      ((s.bay k).limitDue = false → exec (.stepEndsOnLimit k) s = .next s) ∧
      ((s.bay k).waitDue = false → exec (.waitTimeout k) s = .next s) ∧
      ((s.bay k).purgeDue = false → exec (.purgeEnd k) s = .next s) ∧
      ((∀ e, s.arb.requests.get k = some e → e.ageMark ≠ .reached) → exec (.blockingByAge k) s = .next s)) ∧
    (∀ k : Bay, ((s.bay k).door = .opened → exec (.doorOpening k) s = .next s) ∧
      ((s.bay k).door = .shut → exec (.doorClosing k) s = .next s)) ∧
    (s.steam.lowProbe = .dry → exec .lowProbeDry s = .next s) ∧
    (s.steam.lowProbe = .wet → exec .lowProbeWet s = .next s) ∧
    (s.steam.highProbe = .wet → exec .highProbeWet s = .next s) ∧
    (s.steam.highProbe = .dry → exec .highProbeDry s = .next s) ∧
    ∀ code : Code, (s.scan.converting = none → exec (.conversionEnd code) s = .next s) ∧
      (s.scan.converting ≠ some 18 → exec (.scanComplete code) s = .next s)

/-! ## Invariants -/

/-- The plant laws hold in the first state of the part, and every step keeps them: who holds what and what draws power, the generator,
heater and valves with the STEAM row, the compressor, its speed, the dampers and reheaters with the DRY slots, fans and flaps with the
bays' demands, no drying with the condensate full, the drain pump with its fault latch, and no evaluation owed (R25, R51 to R55, R59,
R62, R73, R77, R92, R96, R97, R102, R108, R112 to R124, R126, R162 to R166). -/
def Obligations.ThePlantLawsHoldAtResetAndEveryStepKeepsThem : Prop :=
  (State.reset.PlantLawful ∧ State.reset.PowerLawful ∧ State.reset.BaysLawful ∧ State.reset.EstimatesSound ∧
    State.reset.ScannerSound ∧ State.reset.PendingSound) ∧
  ∀ s t : State, s.PlantLawful → step s = .next t → t.PlantLawful

/-- Every step keeps the power laws: the committed draw is the sum of its terms and never exceeds the budget, which stays in its
range (R73, R77, R78). -/
def Obligations.EveryStepKeepsTheDrawWithinTheBudget : Prop :=
  ∀ s t : State, s.PowerLawful → step s = .next t → t.PowerLawful

/-- Every step keeps the request list and the grant table in agreement with the bays: a bay is in the list exactly while it is in
AWAIT, a holder is ACTIVE in a step of its resource, and programs, step indices and doors stay legal (R5, R42, R51, R52). -/
def Obligations.EveryStepKeepsListAndTableWithTheBays : Prop :=
  ∀ s t : State, s.BaysLawful → step s = .next t → t.BaysLawful

/-- Every step keeps M and the window of every estimator and every value, trim and run count of the scanner in their ranges, the service
port PENDING exactly while a library operation is in progress and no bay port ever so, every record in a slot or in hand
normalized, and a slot whose erasing has begun without a record until the operation ends (R2, R5, R6, R134, R135, R139, R150 to R152,
R174; the last is the model's choice, log 24). -/
def Obligations.EveryStepKeepsTheOtherBlocksSound : Prop :=
  (∀ s t : State, step s = .next t →
    (s.EstimatesSound → t.EstimatesSound) ∧ (s.ScannerSound → t.ScannerSound)) ∧
  ∀ s t : State, step s = .next t → (s.PendingSound → t.PendingSound) ∧ (s.LibrarySound → t.LibrarySound)
end

