-- ==== Sys2Proof/Laws/State.lean ====
section
/-!
SUPPORT. Read after write: one lemma per field per update of State, and the four bays' reads.
-/

namespace Sys2Proof

/-! ## One thing per bay -/

namespace PerBay

variable {α β : Type}

@[simp] theorem get_set (v : PerBay α) (k j : Bay) (x : α) : (v.set k x).get j = if j = k then x else v.get j := by
  match k, j with
  | 0, 0 | 0, 1 | 0, 2 | 0, 3 | 1, 0 | 1, 1 | 1, 2 | 1, 3 | 2, 0 | 2, 1 | 2, 2 | 2, 3 | 3, 0 | 3, 1 | 3, 2 | 3, 3 => rfl

@[simp] theorem get_modify (v : PerBay α) (k j : Bay) (f : α → α) :
    (v.modify k f).get j = if j = k then f (v.get j) else v.get j := by
  unfold PerBay.modify
  rw [get_set]
  split
  · rename_i h; rw [h]
  · rfl

@[simp] theorem get_fill (x : α) (k : Bay) : (PerBay.fill x).get k = x := by
  match k with
  | 0 | 1 | 2 | 3 => rfl

@[simp] theorem get_map (f : α → β) (v : PerBay α) (k : Bay) : (v.map f).get k = f (v.get k) := by
  match k with
  | 0 | 1 | 2 | 3 => rfl

@[simp] theorem get_ofFn (f : Bay → α) (k : Bay) : (PerBay.ofFn f).get k = f k := by
  match k with
  | 0 | 1 | 2 | 3 => rfl

/-- Two records that agree at every bay are equal. -/
theorem ext_get {v w : PerBay α} (h : ∀ k, v.get k = w.get k) : v = w := by
  cases v; cases w
  have h0 := h 0; have h1 := h 1; have h2 := h 2; have h3 := h 3
  simp only [PerBay.get] at h0 h1 h2 h3
  subst h0 h1 h2 h3
  rfl

@[simp] theorem modify_id (v : PerBay α) (k : Bay) : (v.modify k fun x => x) = v := by
  apply ext_get; intro j; simp

end PerBay

namespace Machine.State

variable (s : State)

/-! ## mapBay -/

section

variable (k : Bay) (f : BayContext → BayContext)

@[simp] theorem mapBay_ports : (s.mapBay k f).ports = s.ports := rfl

@[simp] theorem mapBay_library : (s.mapBay k f).library = s.library := rfl

@[simp] theorem mapBay_bays : (s.mapBay k f).bays = s.bays.modify k f := rfl

@[simp] theorem mapBay_arb : (s.mapBay k f).arb = s.arb := rfl

@[simp] theorem mapBay_steam : (s.mapBay k f).steam = s.steam := rfl

@[simp] theorem mapBay_dry : (s.mapBay k f).dry = s.dry := rfl

@[simp] theorem mapBay_scan : (s.mapBay k f).scan = s.scan := rfl

@[simp] theorem mapBay_est : (s.mapBay k f).est = s.est := rfl

@[simp] theorem mapBay_water : (s.mapBay k f).water = s.water := rfl

@[simp] theorem mapBay_counter : (s.mapBay k f).counter = s.counter := rfl

@[simp] theorem mapBay_inputs : (s.mapBay k f).inputs = s.inputs := rfl

@[simp] theorem mapBay_resetCause : (s.mapBay k f).resetCause = s.resetCause := rfl

@[simp] theorem mapBay_addrHigh : (s.mapBay k f).addrHigh = s.addrHigh := rfl

@[simp] theorem mapBay_pending : (s.mapBay k f).pending = s.pending := rfl

@[simp] theorem mapBay_bay (j : Bay) : (s.mapBay k f).bay j = if j = k then f (s.bay j) else s.bay j := by
  simp [State.bay]

@[simp] theorem mapBay_air (j : Bay) : (s.mapBay k f).air j = s.air j := rfl

@[simp] theorem mapBay_chan (n : ChannelNo) : (s.mapBay k f).chan n = s.chan n := rfl

@[simp] theorem mapBay_port (q : Port) : (s.mapBay k f).port q = s.port q := by cases q <;> rfl

end

/-! ## mapArb -/

section

variable (f : Arbiter → Arbiter)

@[simp] theorem mapArb_ports : (s.mapArb f).ports = s.ports := rfl

@[simp] theorem mapArb_library : (s.mapArb f).library = s.library := rfl

@[simp] theorem mapArb_bays : (s.mapArb f).bays = s.bays := rfl

@[simp] theorem mapArb_arb : (s.mapArb f).arb = f s.arb := rfl

@[simp] theorem mapArb_steam : (s.mapArb f).steam = s.steam := rfl

@[simp] theorem mapArb_dry : (s.mapArb f).dry = s.dry := rfl

@[simp] theorem mapArb_scan : (s.mapArb f).scan = s.scan := rfl

@[simp] theorem mapArb_est : (s.mapArb f).est = s.est := rfl

@[simp] theorem mapArb_water : (s.mapArb f).water = s.water := rfl

@[simp] theorem mapArb_counter : (s.mapArb f).counter = s.counter := rfl

@[simp] theorem mapArb_inputs : (s.mapArb f).inputs = s.inputs := rfl

@[simp] theorem mapArb_resetCause : (s.mapArb f).resetCause = s.resetCause := rfl

@[simp] theorem mapArb_addrHigh : (s.mapArb f).addrHigh = s.addrHigh := rfl

@[simp] theorem mapArb_pending : (s.mapArb f).pending = s.pending := rfl

@[simp] theorem mapArb_bay (j : Bay) : (s.mapArb f).bay j = s.bay j := rfl

@[simp] theorem mapArb_air (j : Bay) : (s.mapArb f).air j = s.air j := rfl

@[simp] theorem mapArb_chan (n : ChannelNo) : (s.mapArb f).chan n = s.chan n := rfl

@[simp] theorem mapArb_port (q : Port) : (s.mapArb f).port q = s.port q := by cases q <;> rfl

end

/-! ## mapSteam -/

section

variable (f : SteamUnit → SteamUnit)

@[simp] theorem mapSteam_ports : (s.mapSteam f).ports = s.ports := rfl

@[simp] theorem mapSteam_library : (s.mapSteam f).library = s.library := rfl

@[simp] theorem mapSteam_bays : (s.mapSteam f).bays = s.bays := rfl

@[simp] theorem mapSteam_arb : (s.mapSteam f).arb = s.arb := rfl

@[simp] theorem mapSteam_steam : (s.mapSteam f).steam = f s.steam := rfl

@[simp] theorem mapSteam_dry : (s.mapSteam f).dry = s.dry := rfl

@[simp] theorem mapSteam_scan : (s.mapSteam f).scan = s.scan := rfl

@[simp] theorem mapSteam_est : (s.mapSteam f).est = s.est := rfl

@[simp] theorem mapSteam_water : (s.mapSteam f).water = s.water := rfl

@[simp] theorem mapSteam_counter : (s.mapSteam f).counter = s.counter := rfl

@[simp] theorem mapSteam_inputs : (s.mapSteam f).inputs = s.inputs := rfl

@[simp] theorem mapSteam_resetCause : (s.mapSteam f).resetCause = s.resetCause := rfl

@[simp] theorem mapSteam_addrHigh : (s.mapSteam f).addrHigh = s.addrHigh := rfl

@[simp] theorem mapSteam_pending : (s.mapSteam f).pending = s.pending := rfl

@[simp] theorem mapSteam_bay (j : Bay) : (s.mapSteam f).bay j = s.bay j := rfl

@[simp] theorem mapSteam_air (j : Bay) : (s.mapSteam f).air j = s.air j := rfl

@[simp] theorem mapSteam_chan (n : ChannelNo) : (s.mapSteam f).chan n = s.chan n := rfl

@[simp] theorem mapSteam_port (q : Port) : (s.mapSteam f).port q = s.port q := by cases q <;> rfl

end

/-! ## mapDry -/

section

variable (f : DryingCircuit → DryingCircuit)

@[simp] theorem mapDry_ports : (s.mapDry f).ports = s.ports := rfl

@[simp] theorem mapDry_library : (s.mapDry f).library = s.library := rfl

@[simp] theorem mapDry_bays : (s.mapDry f).bays = s.bays := rfl

@[simp] theorem mapDry_arb : (s.mapDry f).arb = s.arb := rfl

@[simp] theorem mapDry_steam : (s.mapDry f).steam = s.steam := rfl

@[simp] theorem mapDry_dry : (s.mapDry f).dry = f s.dry := rfl

@[simp] theorem mapDry_scan : (s.mapDry f).scan = s.scan := rfl

@[simp] theorem mapDry_est : (s.mapDry f).est = s.est := rfl

@[simp] theorem mapDry_water : (s.mapDry f).water = s.water := rfl

@[simp] theorem mapDry_counter : (s.mapDry f).counter = s.counter := rfl

@[simp] theorem mapDry_inputs : (s.mapDry f).inputs = s.inputs := rfl

@[simp] theorem mapDry_resetCause : (s.mapDry f).resetCause = s.resetCause := rfl

@[simp] theorem mapDry_addrHigh : (s.mapDry f).addrHigh = s.addrHigh := rfl

@[simp] theorem mapDry_pending : (s.mapDry f).pending = s.pending := rfl

@[simp] theorem mapDry_bay (j : Bay) : (s.mapDry f).bay j = s.bay j := rfl

@[simp] theorem mapDry_chan (n : ChannelNo) : (s.mapDry f).chan n = s.chan n := rfl

@[simp] theorem mapDry_port (q : Port) : (s.mapDry f).port q = s.port q := by cases q <;> rfl

end

/-! ## mapScan -/

section

variable (f : Scanner → Scanner)

@[simp] theorem mapScan_ports : (s.mapScan f).ports = s.ports := rfl

@[simp] theorem mapScan_library : (s.mapScan f).library = s.library := rfl

@[simp] theorem mapScan_bays : (s.mapScan f).bays = s.bays := rfl

@[simp] theorem mapScan_arb : (s.mapScan f).arb = s.arb := rfl

@[simp] theorem mapScan_steam : (s.mapScan f).steam = s.steam := rfl

@[simp] theorem mapScan_dry : (s.mapScan f).dry = s.dry := rfl

@[simp] theorem mapScan_scan : (s.mapScan f).scan = f s.scan := rfl

@[simp] theorem mapScan_est : (s.mapScan f).est = s.est := rfl

@[simp] theorem mapScan_water : (s.mapScan f).water = s.water := rfl

@[simp] theorem mapScan_counter : (s.mapScan f).counter = s.counter := rfl

@[simp] theorem mapScan_inputs : (s.mapScan f).inputs = s.inputs := rfl

@[simp] theorem mapScan_resetCause : (s.mapScan f).resetCause = s.resetCause := rfl

@[simp] theorem mapScan_addrHigh : (s.mapScan f).addrHigh = s.addrHigh := rfl

@[simp] theorem mapScan_pending : (s.mapScan f).pending = s.pending := rfl

@[simp] theorem mapScan_bay (j : Bay) : (s.mapScan f).bay j = s.bay j := rfl

@[simp] theorem mapScan_air (j : Bay) : (s.mapScan f).air j = s.air j := rfl

@[simp] theorem mapScan_port (q : Port) : (s.mapScan f).port q = s.port q := by cases q <;> rfl

end

/-! ## mapEst -/

section

variable (k : Bay) (f : Estimator → Estimator)

@[simp] theorem mapEst_ports : (s.mapEst k f).ports = s.ports := rfl

@[simp] theorem mapEst_library : (s.mapEst k f).library = s.library := rfl

@[simp] theorem mapEst_bays : (s.mapEst k f).bays = s.bays := rfl

@[simp] theorem mapEst_arb : (s.mapEst k f).arb = s.arb := rfl

@[simp] theorem mapEst_steam : (s.mapEst k f).steam = s.steam := rfl

@[simp] theorem mapEst_dry : (s.mapEst k f).dry = s.dry := rfl

@[simp] theorem mapEst_scan : (s.mapEst k f).scan = s.scan := rfl

@[simp] theorem mapEst_est : (s.mapEst k f).est = s.est.modify k f := rfl

@[simp] theorem mapEst_water : (s.mapEst k f).water = s.water := rfl

@[simp] theorem mapEst_counter : (s.mapEst k f).counter = s.counter := rfl

@[simp] theorem mapEst_inputs : (s.mapEst k f).inputs = s.inputs := rfl

@[simp] theorem mapEst_resetCause : (s.mapEst k f).resetCause = s.resetCause := rfl

@[simp] theorem mapEst_addrHigh : (s.mapEst k f).addrHigh = s.addrHigh := rfl

@[simp] theorem mapEst_pending : (s.mapEst k f).pending = s.pending := rfl

@[simp] theorem mapEst_bay (j : Bay) : (s.mapEst k f).bay j = s.bay j := rfl

@[simp] theorem mapEst_air (j : Bay) : (s.mapEst k f).air j = s.air j := rfl

@[simp] theorem mapEst_chan (n : ChannelNo) : (s.mapEst k f).chan n = s.chan n := rfl

@[simp] theorem mapEst_port (q : Port) : (s.mapEst k f).port q = s.port q := by cases q <;> rfl

end

/-! ## mapWater -/

section

variable (f : WaterInventory → WaterInventory)

@[simp] theorem mapWater_ports : (s.mapWater f).ports = s.ports := rfl

@[simp] theorem mapWater_library : (s.mapWater f).library = s.library := rfl

@[simp] theorem mapWater_bays : (s.mapWater f).bays = s.bays := rfl

@[simp] theorem mapWater_arb : (s.mapWater f).arb = s.arb := rfl

@[simp] theorem mapWater_steam : (s.mapWater f).steam = s.steam := rfl

@[simp] theorem mapWater_dry : (s.mapWater f).dry = s.dry := rfl

@[simp] theorem mapWater_scan : (s.mapWater f).scan = s.scan := rfl

@[simp] theorem mapWater_est : (s.mapWater f).est = s.est := rfl

@[simp] theorem mapWater_water : (s.mapWater f).water = f s.water := rfl

@[simp] theorem mapWater_counter : (s.mapWater f).counter = s.counter := rfl

@[simp] theorem mapWater_inputs : (s.mapWater f).inputs = s.inputs := rfl

@[simp] theorem mapWater_resetCause : (s.mapWater f).resetCause = s.resetCause := rfl

@[simp] theorem mapWater_addrHigh : (s.mapWater f).addrHigh = s.addrHigh := rfl

@[simp] theorem mapWater_pending : (s.mapWater f).pending = s.pending := rfl

@[simp] theorem mapWater_bay (j : Bay) : (s.mapWater f).bay j = s.bay j := rfl

@[simp] theorem mapWater_air (j : Bay) : (s.mapWater f).air j = s.air j := rfl

@[simp] theorem mapWater_chan (n : ChannelNo) : (s.mapWater f).chan n = s.chan n := rfl

@[simp] theorem mapWater_port (q : Port) : (s.mapWater f).port q = s.port q := by cases q <;> rfl

end

/-! ## mapLibrary -/

section

variable (f : Library → Library)

@[simp] theorem mapLibrary_ports : (s.mapLibrary f).ports = s.ports := rfl

@[simp] theorem mapLibrary_library : (s.mapLibrary f).library = f s.library := rfl

@[simp] theorem mapLibrary_bays : (s.mapLibrary f).bays = s.bays := rfl

@[simp] theorem mapLibrary_arb : (s.mapLibrary f).arb = s.arb := rfl

@[simp] theorem mapLibrary_steam : (s.mapLibrary f).steam = s.steam := rfl

@[simp] theorem mapLibrary_dry : (s.mapLibrary f).dry = s.dry := rfl

@[simp] theorem mapLibrary_scan : (s.mapLibrary f).scan = s.scan := rfl

@[simp] theorem mapLibrary_est : (s.mapLibrary f).est = s.est := rfl

@[simp] theorem mapLibrary_water : (s.mapLibrary f).water = s.water := rfl

@[simp] theorem mapLibrary_counter : (s.mapLibrary f).counter = s.counter := rfl

@[simp] theorem mapLibrary_inputs : (s.mapLibrary f).inputs = s.inputs := rfl

@[simp] theorem mapLibrary_resetCause : (s.mapLibrary f).resetCause = s.resetCause := rfl

@[simp] theorem mapLibrary_addrHigh : (s.mapLibrary f).addrHigh = s.addrHigh := rfl

@[simp] theorem mapLibrary_pending : (s.mapLibrary f).pending = s.pending := rfl

@[simp] theorem mapLibrary_bay (j : Bay) : (s.mapLibrary f).bay j = s.bay j := rfl

@[simp] theorem mapLibrary_air (j : Bay) : (s.mapLibrary f).air j = s.air j := rfl

@[simp] theorem mapLibrary_chan (n : ChannelNo) : (s.mapLibrary f).chan n = s.chan n := rfl

@[simp] theorem mapLibrary_port (q : Port) : (s.mapLibrary f).port q = s.port q := by cases q <;> rfl

end

/-! ## mapInputs -/

section

variable (f : Inputs → Inputs)

@[simp] theorem mapInputs_ports : (s.mapInputs f).ports = s.ports := rfl

@[simp] theorem mapInputs_library : (s.mapInputs f).library = s.library := rfl

@[simp] theorem mapInputs_bays : (s.mapInputs f).bays = s.bays := rfl

@[simp] theorem mapInputs_arb : (s.mapInputs f).arb = s.arb := rfl

@[simp] theorem mapInputs_steam : (s.mapInputs f).steam = s.steam := rfl

@[simp] theorem mapInputs_dry : (s.mapInputs f).dry = s.dry := rfl

@[simp] theorem mapInputs_scan : (s.mapInputs f).scan = s.scan := rfl

@[simp] theorem mapInputs_est : (s.mapInputs f).est = s.est := rfl

@[simp] theorem mapInputs_water : (s.mapInputs f).water = s.water := rfl

@[simp] theorem mapInputs_counter : (s.mapInputs f).counter = s.counter := rfl

@[simp] theorem mapInputs_inputs : (s.mapInputs f).inputs = f s.inputs := rfl

@[simp] theorem mapInputs_resetCause : (s.mapInputs f).resetCause = s.resetCause := rfl

@[simp] theorem mapInputs_addrHigh : (s.mapInputs f).addrHigh = s.addrHigh := rfl

@[simp] theorem mapInputs_pending : (s.mapInputs f).pending = s.pending := rfl

@[simp] theorem mapInputs_bay (j : Bay) : (s.mapInputs f).bay j = s.bay j := rfl

@[simp] theorem mapInputs_air (j : Bay) : (s.mapInputs f).air j = s.air j := rfl

@[simp] theorem mapInputs_chan (n : ChannelNo) : (s.mapInputs f).chan n = s.chan n := rfl

@[simp] theorem mapInputs_port (q : Port) : (s.mapInputs f).port q = s.port q := by cases q <;> rfl

end

/-! ## mapAir -/

section

variable (k : Bay) (f : AirBay → AirBay)

@[simp] theorem mapAir_ports : (s.mapAir k f).ports = s.ports := rfl

@[simp] theorem mapAir_library : (s.mapAir k f).library = s.library := rfl

@[simp] theorem mapAir_bays : (s.mapAir k f).bays = s.bays := rfl

@[simp] theorem mapAir_arb : (s.mapAir k f).arb = s.arb := rfl

@[simp] theorem mapAir_steam : (s.mapAir k f).steam = s.steam := rfl

@[simp] theorem mapAir_dry : (s.mapAir k f).dry = { s.dry with air := s.dry.air.modify k f } := rfl

@[simp] theorem mapAir_scan : (s.mapAir k f).scan = s.scan := rfl

@[simp] theorem mapAir_est : (s.mapAir k f).est = s.est := rfl

@[simp] theorem mapAir_water : (s.mapAir k f).water = s.water := rfl

@[simp] theorem mapAir_counter : (s.mapAir k f).counter = s.counter := rfl

@[simp] theorem mapAir_inputs : (s.mapAir k f).inputs = s.inputs := rfl

@[simp] theorem mapAir_resetCause : (s.mapAir k f).resetCause = s.resetCause := rfl

@[simp] theorem mapAir_addrHigh : (s.mapAir k f).addrHigh = s.addrHigh := rfl

@[simp] theorem mapAir_pending : (s.mapAir k f).pending = s.pending := rfl

@[simp] theorem mapAir_bay (j : Bay) : (s.mapAir k f).bay j = s.bay j := rfl

@[simp] theorem mapAir_air (j : Bay) : (s.mapAir k f).air j = if j = k then f (s.air j) else s.air j := by
  simp [State.air]

@[simp] theorem mapAir_chan (n : ChannelNo) : (s.mapAir k f).chan n = s.chan n := rfl

@[simp] theorem mapAir_port (q : Port) : (s.mapAir k f).port q = s.port q := by cases q <;> rfl

end

/-! ## mapPort -/

section

variable (p : Port) (f : PortRec → PortRec)

@[simp] theorem mapPort_library : (s.mapPort p f).library = s.library := by cases p <;> rfl

@[simp] theorem mapPort_bays : (s.mapPort p f).bays = s.bays := by cases p <;> rfl

@[simp] theorem mapPort_arb : (s.mapPort p f).arb = s.arb := by cases p <;> rfl

@[simp] theorem mapPort_steam : (s.mapPort p f).steam = s.steam := by cases p <;> rfl

@[simp] theorem mapPort_dry : (s.mapPort p f).dry = s.dry := by cases p <;> rfl

@[simp] theorem mapPort_scan : (s.mapPort p f).scan = s.scan := by cases p <;> rfl

@[simp] theorem mapPort_est : (s.mapPort p f).est = s.est := by cases p <;> rfl

@[simp] theorem mapPort_water : (s.mapPort p f).water = s.water := by cases p <;> rfl

@[simp] theorem mapPort_counter : (s.mapPort p f).counter = s.counter := by cases p <;> rfl

@[simp] theorem mapPort_inputs : (s.mapPort p f).inputs = s.inputs := by cases p <;> rfl

@[simp] theorem mapPort_resetCause : (s.mapPort p f).resetCause = s.resetCause := by cases p <;> rfl

@[simp] theorem mapPort_addrHigh : (s.mapPort p f).addrHigh = s.addrHigh := by cases p <;> rfl

@[simp] theorem mapPort_pending : (s.mapPort p f).pending = s.pending := by cases p <;> rfl

@[simp] theorem mapPort_bay (j : Bay) : (s.mapPort p f).bay j = s.bay j := by cases p <;> rfl

@[simp] theorem mapPort_air (j : Bay) : (s.mapPort p f).air j = s.air j := by cases p <;> rfl

@[simp] theorem mapPort_chan (n : ChannelNo) : (s.mapPort p f).chan n = s.chan n := by cases p <;> rfl

@[simp] theorem mapPort_port (q : Port) : (s.mapPort p f).port q = if q = p then f (s.port q) else s.port q := by
  cases p <;> cases q <;> simp [State.mapPort, State.port]

end

/-- Two changes of one port are one. -/
theorem mapPort_mapPort (p : Port) (f g : PortRec → PortRec) : (s.mapPort p f).mapPort p g = s.mapPort p (g ∘ f) := by
  cases p with
  | bay k =>
    simp only [mapPort]
    congr 2
    apply PerBay.ext_get; intro j; simp only [PerBay.get_modify]; split <;> rfl
  | service => rfl

/-- Only what a change makes of the port as it stands matters. -/
theorem mapPort_congr {p : Port} {f g : PortRec → PortRec} (h : f (s.port p) = g (s.port p)) :
    s.mapPort p f = s.mapPort p g := by
  cases p with
  | bay k =>
    have : s.ports.bay.modify k f = s.ports.bay.modify k g := by
      apply PerBay.ext_get; intro j; simp only [PerBay.get_modify]; split
      · rename_i e; subst e; exact h
      · rfl
    simp only [mapPort, this]
  | service => simp only [mapPort]; simp only [port] at h; rw [h]

end Machine.State

end Sys2Proof
end

