-- ==== Sys2Proof/Laws/Frames.lean ====
section
/-!
SUPPORT. What the hand-offs between arbiter, plant and bays leave unchanged, once for each shared operation.
-/

namespace Sys2Proof.Machine

/-- What a command of 03 or 04 sets in the arbiter, and grants and requests do not. -/
def Arbiter.rulesOf (a : Arbiter) : Commissioning × ArbMode × PerBay Bool × Nat × Settings :=
  (a.commissioning, a.mode, a.masks, a.budget, a.settings)

namespace Arbiter

variable (a : Arbiter) (k : Bay)

@[simp] theorem owe_rulesOf : (owe a).rulesOf = a.rulesOf := rfl
@[simp] theorem post_rulesOf (r : Resource) (b : Bool) : (post k r b a).rulesOf = a.rulesOf := rfl
@[simp] theorem dropEntry_rulesOf : (a.dropEntry k).rulesOf = a.rulesOf := rfl
@[simp] theorem setReheat_rulesOf (r : Reheat) : (setReheat k r a).rulesOf = a.rulesOf := rfl
@[simp] theorem clearDry_rulesOf : (clearDry k a).rulesOf = a.rulesOf := rfl
@[simp] theorem promote_rulesOf : (promote k a).rulesOf = a.rulesOf := rfl

@[simp] theorem withdraw_rulesOf : (withdraw k a).rulesOf = a.rulesOf := by
  unfold withdraw; split <;> rfl

@[simp] theorem rotate_rulesOf : (a.rotate k).rulesOf = a.rulesOf := by
  unfold rotate; split <;> rfl

@[simp] theorem placeDry_rulesOf (r : Reheat) : (a.placeDry k r).rulesOf = a.rulesOf := by
  unfold placeDry; split <;> rfl

@[simp] theorem raisePassed_rulesOf (l : List Bay) : (raisePassed l a).rulesOf = a.rulesOf := by
  unfold raisePassed
  induction l generalizing a with
  | nil => rfl
  | cons j l ih => rw [List.foldl_cons, ih]; rfl

end Arbiter

namespace State

variable (s : State) (k : Bay)

/-! ## The plain updates -/

@[simp] theorem mapBay_stable (f : BayContext → BayContext) : (s.mapBay k f).stable = s.stable := by
  simp [stable]

@[simp] theorem mapSteam_stable (f : SteamUnit → SteamUnit) : (s.mapSteam f).stable = s.stable := by
  simp [stable]

@[simp] theorem mapDry_stable (f : DryingCircuit → DryingCircuit) : (s.mapDry f).stable = s.stable := by
  simp [stable]

@[simp] theorem mapAir_stable (f : AirBay → AirBay) : (s.mapAir k f).stable = s.stable := by
  simp [stable]

/-- An arbiter update that keeps what its commands set keeps the rest. -/
theorem mapArb_stable {f : Arbiter → Arbiter} (h : (f s.arb).rulesOf = s.arb.rulesOf) :
    (s.mapArb f).stable = s.stable := by
  simp only [Arbiter.rulesOf, Prod.mk.injEq] at h
  simp [stable, h]

@[simp] theorem mapArb_owe_stable : (s.mapArb Arbiter.owe).stable = s.stable := mapArb_stable s rfl

@[simp] theorem raiseBay_stable (n : BayNotice) : (s.raiseBay n k).stable = s.stable := by
  have hb : ∀ q : Port, ((s.raiseBay n k).port q).bus = (s.port q).bus := by
    intro q
    unfold raiseBay
    rw [mapPort_port]
    split
    · simp only [PortRec.bus]; rw [mapPort_port]; split <;> rfl
    · rw [mapPort_port]; split <;> rfl
  simp only [stable, hb]
  simp [raiseBay]

@[simp] theorem raisePlant_stable (n : PlantNotice) : (s.raisePlant n).stable = s.stable := by
  have hb : ∀ q : Port, ((s.raisePlant n).port q).bus = (s.port q).bus := by
    intro q
    cases q with
    | bay j => simp only [raisePlant, port]; split <;> simp [PortRec.bus]
    | service => rfl
  simp only [stable, hb]
  rfl

/-! ## Grants and their ends -/

@[simp] theorem refreshDraw_stable : s.refreshDraw.stable = s.stable := mapArb_stable s rfl

@[simp] theorem handDemands_stable : (s.handDemands k).stable = s.stable := mapAir_stable s k _

@[simp] theorem reheaterFollow_stable (was : Bool) : (s.reheaterFollow k was).stable = s.stable := by
  unfold reheaterFollow; split
  · split <;> simp
  · simp

@[simp] theorem setReheat_stable (r : Reheat) : (s.setReheat k r).stable = s.stable := by
  unfold setReheat; simp; exact mapArb_stable s rfl

@[simp] theorem endSteam_stable : (s.endSteam k).stable = s.stable := by
  unfold endSteam; simp; exact mapArb_stable s rfl

@[simp] theorem clearDrySlot_stable : (s.clearDrySlot k).stable = s.stable := by
  unfold clearDrySlot; simp; exact mapArb_stable s rfl

@[simp] theorem endDry_stable : (s.endDry k).stable = s.stable := by
  unfold endDry; simp

@[simp] theorem cutDry_stable : (s.cutDry k).stable = s.stable := by
  unfold cutDry; simp

@[simp] theorem forceStop_stable : s.forceStop.stable = s.stable := by
  unfold forceStop; simp

@[simp] theorem release_stable : (s.release k).stable = s.stable := by
  unfold release; split
  · simp
  · split <;> simp

@[simp] theorem withdraw_stable : (s.withdraw k).stable = s.stable := mapArb_stable s (by simp)

@[simp] theorem postRequest_stable : (s.postRequest k).stable = s.stable := by
  unfold postRequest; split
  · split
    · exact mapArb_stable s rfl
    · exact mapArb_stable s rfl
    · rfl
  · rfl

@[simp] theorem revokeBay_stable : (s.revokeBay k).stable = s.stable := by
  unfold revokeBay; simp

@[simp] theorem revokeSteam_stable : (s.revokeSteam k).stable = s.stable := by
  unfold revokeSteam; simp

@[simp] theorem revokeDry_stable : (s.revokeDry k).stable = s.stable := by
  unfold revokeDry; simp

@[simp] theorem grantBay_stable : (s.grantBay k).stable = s.stable := by
  unfold grantBay; simp

@[simp] theorem grantSteam_stable : (s.grantSteam k).stable = s.stable := by
  unfold grantSteam; simp
  exact mapArb_stable s (by rw [Arbiter.rotate_rulesOf]; rfl)

@[simp] theorem serveDry_stable (boost : Bool) : (s.serveDry k boost).stable = s.stable := by
  unfold serveDry; dsimp only; rw [refreshDraw_stable, mapAir_stable, mapDry_stable]
  exact mapArb_stable s (by simp)

@[simp] theorem decideReheat_stable (boost : Bool) : (s.decideReheat k boost).stable = s.stable := by
  unfold decideReheat; split <;> simp

@[simp] theorem grantDry_stable (boost : Bool) : (s.grantDry k boost).stable = s.stable := by
  unfold grantDry; simp

@[simp] theorem grant_stable (e : Entry) : (s.grant k e).stable = s.stable := by
  unfold grant; split <;> simp

/-! ## The evaluation -/

@[simp] theorem shedReheat_stable (more : State → Bool) (l : List Bay) : (shedReheat more l s).stable = s.stable := by
  induction l generalizing s with
  | nil => rfl
  | cons j l ih => unfold shedReheat; split <;> simp [ih]

@[simp] theorem upgradeReheat_stable (l : List Bay) : (upgradeReheat l s).stable = s.stable := by
  induction l generalizing s with
  | nil => rfl
  | cons j l ih => unfold upgradeReheat; split <;> simp [ih]

@[simp] theorem grantInPass_stable (e : Entry) (l : List Bay) : (s.grantInPass k e l).stable = s.stable := by
  unfold grantInPass; rw [grant_stable]; exact mapArb_stable s (by simp)

@[simp] theorem walk_stable (n : Nat) : (walk n s).stable = s.stable := by
  induction n generalizing s with
  | zero => rfl
  | succ n ih =>
    unfold walk; split
    · simp [ih]
    · simp
    · split
      · simp [ih]
      · rfl

@[simp] theorem evaluate_stable : s.evaluate.stable = s.stable := by
  unfold evaluate; rw [walk_stable]; exact mapArb_stable s rfl

@[simp] theorem settle_stable : s.settle.stable = s.stable := by
  unfold settle; split <;> simp

@[simp] theorem oweAndSettle_stable : s.oweAndSettle.stable = s.stable := by
  unfold oweAndSettle; simp

/-! ## Shedding and plant reports -/

@[simp] theorem shedTail_stable : s.shedTail.stable = s.stable := by
  unfold shedTail; split <;> simp

@[simp] theorem shedDry_stable (l : List Bay) : (shedDry l s).stable = s.stable := by
  induction l generalizing s with
  | nil => rfl
  | cons j l ih => unfold shedDry; split <;> simp [ih]

@[simp] theorem shedSteam_stable : s.shedSteam.stable = s.stable := by
  unfold shedSteam; split
  · split <;> simp
  · rfl

@[simp] theorem shedStages_stable : s.shedStages.stable = s.stable := by
  unfold shedStages; simp

@[simp] theorem shed_stable : s.shed.stable = s.stable := by
  unfold shed; split <;> simp

@[simp] theorem tripGenerator_stable (c : TripCause) : (s.tripGenerator c).stable = s.stable := by
  unfold tripGenerator; simp only [raisePlant_stable, mapArb_owe_stable]
  split <;> simp

@[simp] theorem revokeSlot_stable (d : Option DrySlot) : (s.revokeSlot d).stable = s.stable := by
  unfold revokeSlot; split <;> simp

@[simp] theorem onTankFull_stable : s.onTankFull.stable = s.stable := by
  unfold onTankFull; simp

/-! ## The sequencers -/

@[simp] theorem carryOver_stable (r : StepRecord) : (s.carryOver k r).stable = s.stable := by
  unfold carryOver; split
  · dsimp only; split <;> simp
  · rfl

@[simp] theorem activate_stable : (s.activate k).stable = s.stable := mapBay_stable s k _

@[simp] theorem awaitGrant_stable : (s.awaitGrant k).stable = s.stable := by
  unfold awaitGrant; simp

@[simp] theorem enterClosed_stable (r : StepRecord) : (s.enterClosed k r).stable = s.stable := by
  unfold enterClosed; split
  · split <;> simp
  · simp

@[simp] theorem enterStep_stable (fresh : Bool) : (s.enterStep k fresh).stable = s.stable := by
  unfold enterStep; dsimp only
  split
  · simp
  · split <;> simp

@[simp] theorem finishBay_stable : (s.finishBay k).stable = s.stable := by
  unfold finishBay; simp

@[simp] theorem advance_stable : (s.advance k).stable = s.stable := by
  unfold advance; split <;> simp

@[simp] theorem giveUp_stable : (s.giveUp k).stable = s.stable := by
  unfold giveUp; simp

@[simp] theorem haltBay_stable (f : BayFault) : (s.haltBay k f).stable = s.stable := by
  unfold haltBay; simp

@[simp] theorem startBay_stable : (s.startBay k).stable = s.stable := enterStep_stable s k true

@[simp] theorem abortBay_stable : (s.abortBay k).stable = s.stable := by
  unfold abortBay; simp

@[simp] theorem skipBay_stable : (s.skipBay k).stable = s.stable := by
  unfold skipBay; simp

@[simp] theorem clearBay_stable : (s.clearBay k).stable = s.stable := by
  unfold clearBay; simp

@[simp] theorem openDoor_stable : (s.openDoor k).stable = s.stable := by
  unfold openDoor; dsimp only; split <;> simp

@[simp] theorem closeDoor_stable : (s.closeDoor k).stable = s.stable := by
  unfold closeDoor; dsimp only; split <;> simp

@[simp] theorem endOnLimit_stable : (s.endOnLimit k).stable = s.stable := by
  unfold endOnLimit; simp

@[simp] theorem endPurge_stable : (s.endPurge k).stable = s.stable := by
  unfold endPurge; simp

@[simp] theorem scanBay_stable : (s.scanBay k).stable = s.stable := by
  unfold scanBay; split
  · split
    · simp
    · dsimp only; split
      · simp
      · split <;> simp
  · rfl

@[simp] theorem stallReport_stable : (s.stallReport k).stable = s.stable := by
  unfold stallReport; split <;> simp

end State

end Sys2Proof.Machine
end

