-- ==== Sys2Proof/Laws/Command.lean ====
section
/-!
SUPPORT. What the port's checks make of a command's frame (R172), so that no proof about a command unfolds them.
-/

namespace Sys2Proof.Machine

namespace Command

@[simp] theorem ofCode_code (c : Command) : ofCode c.code = some c := by cases c <;> rfl

/-- What makes the port hand a command on: permission, length, bay operand and, for LOAD_PROGRAM, the record. -/
structure Passes (c : Command) (p : Port) (params : List Byte) : Prop where
  permitted : c.permitted p = true
  short     : params.length ≤ Params.maxL
  suits     : c.lengthSuits p params.length = true
  bay       : c.bayBytes p = 1 → (params.getD 0 0).toNat ≤ 3
  record    : c = .loadProgram → (parseProgram (params.drop (c.bayBytes p + 2))).isSome = true

end Command

/-- The data bytes of a write in progress, one after another into a buffer that is not over-full (R171). -/
theorem foldl_storeByte (w : List Byte) : ∀ (r : PortRec), r.takesBytes = true → r.rx.length ≤ Params.rxBytes →
    w.foldl PortRec.storeByte r
      = { r with rx := (r.rx ++ w).take Params.rxBytes
                 overrun := r.overrun || decide (Params.rxBytes < r.rx.length + w.length) } := by
  induction w with
  | nil =>
    intro r _ h
    rw [List.foldl_nil, List.append_nil, List.take_of_length_le h, List.length_nil, Nat.add_zero,
      decide_eq_false (Nat.not_lt.mpr h), Bool.or_false]
  | cons b w ih =>
    intro r ht h
    rw [List.foldl_cons]
    by_cases hb : r.rx.length < Params.rxBytes
    · have hl : (r.rx ++ [b]).length ≤ Params.rxBytes := by simp; omega
      have hs : r.storeByte b = { r with rx := r.rx ++ [b] } := by
        simp only [PortRec.storeByte, PortRec.acknowledgesByte, ht, hb, decide_true, Bool.and_true, if_true]
      rw [hs, ih { r with rx := r.rx ++ [b] } ht hl]
      simp only [List.append_assoc, List.singleton_append, List.length_append, List.length_cons, List.length_nil]
      congr 2
      simp only [decide_eq_decide]
      omega
    · have hs : r.storeByte b = { r with overrun := true } := by
        simp [PortRec.storeByte, PortRec.acknowledgesByte, ht, hb]
      have he : r.rx.length = Params.rxBytes := by omega
      rw [hs, ih { r with overrun := true } ht h]
      simp only [← he, List.take_left, List.length_cons, Bool.true_or]
      rw [decide_eq_true (by omega), Bool.or_true]

/-- A port that is not PENDING takes the bytes of a write once it has begun (R171). -/
theorem takesBytes_startWrite {r : PortRec} (h : r.phase ≠ .pending) : r.startWrite.takesBytes = true := by
  cases hp : r.phase with
  | pending => exact absurd hp h
  | _ => simp [PortRec.startWrite, PortRec.takesBytes, hp]

/-- The receive buffer of a write (R171): its first 112 bytes, overrun where there are more. -/
theorem receive_eq (w : List Byte) {r : PortRec} (h : r.phase ≠ .pending) :
    r.receive w = { r with
      phase := r.startWrite.phase, rx := w.take Params.rxBytes, overrun := decide (Params.rxBytes < w.length) } := by
  have hs : ({ r.startWrite with rx := [], overrun := false } : PortRec)
      = { r with phase := r.startWrite.phase, rx := [], overrun := false } := by
    unfold PortRec.startWrite; split <;> rfl
  unfold PortRec.receive
  rw [foldl_storeByte w { r.startWrite with rx := [], overrun := false } (takesBytes_startWrite h) (by simp), hs]
  simp

theorem frame_length_le {params : List Byte} (h : params.length ≤ Params.maxL) (c : Command) :
    (frame c params).length ≤ Params.rxBytes := by
  simp only [frame, List.length_cons]; simp only [Params.maxL] at h; simp only [Params.rxBytes]; omega

theorem byteOf_toNat {n : Nat} (h : n ≤ Params.maxL) : (byteOf n).toNat = n := by
  simp only [Params.maxL] at h
  simp only [byteOf, BitVec.toNat_ofNat]
  omega

/-- A frame that passes every check is refused by none. -/
theorem refuseFrame_frame {c : Command} {p : Port} {params : List Byte} (h : c.Passes p params) :
    refuseFrame p (frame c params) false = none := by
  have hlen := byteOf_toNat h.short
  have hs := h.short
  unfold refuseFrame frame
  simp only [hlen, Command.ofCode_code, h.permitted, h.suits, Bool.false_or, Bool.not_true, Bool.false_eq_true,
    ne_eq, not_true_eq_false, decide_false, Bool.or_false, if_false]
  rw [if_neg (by simp only [decide_eq_true_eq]; omega)]
  rw [if_neg (fun hb => by have := h.bay hb.1; omega)]
  rw [if_neg]
  rintro ⟨hc, hr⟩
  have := h.record hc
  simp only [Option.isNone_iff_eq_none] at hr
  rw [hr] at this
  exact absurd this (by simp)

namespace State

variable {s : State} {p : Port}

/-- The taking of a write in one reading of it: the reply to a frame takes the place of its bytes. -/
theorem takeFrame_eq (w : List Byte) (act : State → State) :
    s.takeFrame p w act = if (s.port p).phase = .pending then s
      else match refuseFrame p (w.take Params.rxBytes) (decide (Params.rxBytes < w.length)) with
        | some status => s.reply p status
        | none => act s := by
  by_cases ha : (s.port p).phase = .pending
  · rw [takeFrame, if_pos ha, if_pos ha]
  · have hr (status : Status) : (s.mapPort p (PortRec.receive w)).reply p status = s.reply p status := by
      unfold reply
      rw [mapPort_mapPort]
      apply mapPort_congr (s := s)
      rw [Function.comp, receive_eq w ha]; rfl
    cases h : refuseFrame p (w.take Params.rxBytes) (decide (Params.rxBytes < w.length)) <;>
      simp only [takeFrame, hr, mapPort_port, if_true, receive_eq w ha, h]

/-- A command that passes the port's checks is handed to its owner. -/
theorem command_of_passes {c : Command} {params : List Byte} (act : State → State) (ha : s.Accepts p)
    (h : c.Passes p params) : s.command p c params act = act s := by
  have hl := frame_length_le h.short c
  rw [command, takeFrame_eq, if_neg ha, List.take_of_length_le hl, decide_eq_false (Nat.not_lt.mpr hl), refuseFrame_frame h]

/-- A PENDING port takes nothing (R174). -/
theorem command_of_pending {c : Command} {params : List Byte} (act : State → State)
    (h : (s.port p).phase = .pending) : s.command p c params act = s := by
  rw [command, takeFrame_eq, if_pos h]

/-- A service command that fits a frame is not permitted on a bay port (R176). -/
theorem command_of_bay_port {k : Bay} {c : Command} {params : List Byte} (act : State → State)
    (ha : s.Accepts (.bay k)) (hg : c.group = .service) (hs : params.length ≤ Params.maxL) :
    s.command (.bay k) c params act = s.reply (.bay k) .notPermitted := by
  have hlen := byteOf_toNat hs
  have hl := frame_length_le hs c
  rw [command, takeFrame_eq, if_neg ha, List.take_of_length_le hl, decide_eq_false (Nat.not_lt.mpr hl)]
  simp only [refuseFrame, frame, hlen, Command.ofCode_code, Command.permitted, hg]
  rw [if_neg (by simp; omega)]
  rfl

/-- A bay command in range passes on either port. -/
theorem bayCommand_of_passes {o : Origin} {c : Command} {params : List Byte} (act : Bay → State → State)
    (ha : s.Accepts o.port) (h : c.Passes o.port (o.operand ++ params)) :
    s.bayCommand o c params act = act o.bay s := command_of_passes _ ha h

end State

namespace Command

/-- A command of exact length with no bay operand passes on the service port. -/
theorem passes_service {c : Command} {params : List Byte} {n : Nat} (hb : c.group ≠ .bay)
    (hl : c.operandLength = .exactly n) (hn : params.length = n) (hs : n ≤ Params.maxL) : c.Passes .service params where
  permitted := rfl
  short := by omega
  suits := by
    have h0 : c.bayBytes .service = 0 := by simp [bayBytes, hb]
    simp [lengthSuits, h0, hl, Length.suits, hn]
  bay := by simp [bayBytes, hb]
  record := by rintro rfl; simp [operandLength] at hl

/-- A command of exact length with no bay operand, permitted on every port, passes. -/
theorem passes_open {c : Command} {params : List Byte} {n : Nat} (p : Port) (hb : c.group = .port ∨ c.group = .openRead)
    (hl : c.operandLength = .exactly n) (hn : params.length = n) (hs : n ≤ Params.maxL) : c.Passes p params where
  permitted := by cases p <;> rcases hb with hb | hb <;> simp [permitted, hb]
  short := by omega
  suits := by
    have h0 : c.bayBytes p = 0 := by cases p <;> rcases hb with hb | hb <;> simp [bayBytes, hb]
    simp [lengthSuits, h0, hl, Length.suits, hn]
  bay := by cases p <;> rcases hb with hb | hb <;> simp [bayBytes, hb]
  record := by rintro rfl; simp [operandLength] at hl

/-- A bay command of exact length whose bay operand names a bay passes on its port. -/
theorem passes_bay {c : Command} {params : List Byte} {n : Nat} (o : Origin) (hb : c.group = .bay)
    (hl : c.operandLength = .exactly n) (hn : params.length = n) (hs : n + 1 ≤ Params.maxL) (ho : o.inRange = true) :
    c.Passes o.port (o.operand ++ params) where
  permitted := by cases o <;> simp [Origin.port, permitted, hb]
  short := by cases o <;> simp [Origin.operand] <;> omega
  suits := by cases o <;> simp [Origin.port, Origin.operand, lengthSuits, bayBytes, hb, hl, Length.suits, hn]
  bay := by
    cases o with
    | panel k => simp [Origin.port, bayBytes]
    | main b => simp [Origin.inRange] at ho; simp [Origin.operand]; omega
  record := by rintro rfl; simp [operandLength] at hl

/-- LOAD_PROGRAM passes with a record that R1 accepts. -/
theorem passes_loadProgram (o : Origin) (water : Word16) (record : List Byte) (ho : o.inRange = true)
    (hs : record.length ≤ 100) (hr : (parseProgram record).isSome = true) :
    Command.loadProgram.Passes o.port (o.operand ++ (wordBytes water ++ record)) where
  permitted := by cases o <;> rfl
  short := by cases o <;> simp [Origin.operand, wordBytes, be16, Params.maxL] <;> omega
  suits := by
    cases o <;> simp [Origin.port, Origin.operand, lengthSuits, bayBytes, group, operandLength, Length.suits, wordBytes, be16]
  bay := by
    cases o with
    | panel k => simp [Origin.port, bayBytes]
    | main b => simp [Origin.inRange] at ho; simp [Origin.operand]; omega
  record := by intro _; cases o <;> simpa [Origin.port, Origin.operand, bayBytes, group, wordBytes, be16] using hr

/-- WRITE_RECIPE passes with any record that fits its frame. -/
theorem passes_writeRecipe (slot : Byte) (record : List Byte) (hs : record.length ≤ 107) :
    Command.writeRecipe.Passes .service (slot :: record) where
  permitted := rfl
  short := by simp [Params.maxL]; omega
  suits := by simp [lengthSuits, bayBytes, group, operandLength, Length.suits]
  bay := by simp [bayBytes, group]
  record := by simp

end Command

end Sys2Proof.Machine
end

