-- ==== Sys2Proof/Laws/Evaluation.lean ====
section
/-!
SUPPORT. What a pass of the walk can answer, and what an evaluation leaves of a bay that has no request.
-/

namespace Sys2Proof.Machine.State

variable (s : State)

/-! ## A pass (R63) -/

/-- What a pass over `l` may answer: the entry it names stands in the ring, is eligible, and fits where it is granted; where
the pass stalls it is blocking and does not fit. -/
def PassSound (l : List Bay) : Pass → Prop
  | .grants k e _ => k ∈ l ∧ s.arb.requests.get k = some e ∧ s.eligible k e = true ∧ s.fits e = true
  | .stalls k e _ => k ∈ l ∧ s.arb.requests.get k = some e ∧ s.eligible k e = true ∧ s.fits e = false ∧ e.blocking = true
  | .ends => True

theorem PassSound.weaken {s : State} {l : List Bay} {r : Pass} (j : Bay) (h : s.PassSound l r) : s.PassSound (j :: l) r := by
  cases r with
  | grants => exact ⟨List.mem_cons_of_mem _ h.1, h.2⟩
  | stalls => exact ⟨List.mem_cons_of_mem _ h.1, h.2⟩
  | ends => trivial

/-- Every pass answers so. -/
theorem pass_spec (l passed : List Bay) : s.PassSound l (s.pass l passed) := by
  induction l generalizing passed with
  | nil => trivial
  | cons j l ih =>
    unfold pass
    cases he : s.arb.requests.get j with
    | none => exact (ih _).weaken j
    | some e =>
      dsimp only
      by_cases hel : s.eligible j e = true
      · rw [if_pos hel]
        by_cases hf : s.fits e = true
        · rw [if_pos hf]; exact ⟨List.mem_cons_self .., he, hel, hf⟩
        · rw [if_neg hf]
          by_cases hb : e.blocking = true
          · rw [if_pos hb]; exact ⟨List.mem_cons_self .., he, hel, by simpa using hf, hb⟩
          · rw [if_neg hb]; exact (ih _).weaken j
      · rw [if_neg hel]; exact (ih _).weaken j

/-- No entry is eligible: the pass runs to the end of the ring. -/
theorem pass_ends (l passed : List Bay) (h : ∀ k e, s.arb.requests.get k = some e → s.eligible k e = false) :
    s.pass l passed = .ends := by
  induction l generalizing passed with
  | nil => rfl
  | cons j l ih =>
    unfold pass
    split
    · exact ih _
    · rename_i e he
      rw [if_neg (by rw [h j e he]; simp)]
      exact ih _

/-! ## Bays and requests through grants -/

section

variable (k j : Bay)

@[simp] theorem refreshDraw_bays : s.refreshDraw.bays = s.bays := rfl

@[simp] theorem refreshDraw_requests : s.refreshDraw.arb.requests = s.arb.requests := rfl

@[simp] theorem handDemands_bays : (s.handDemands k).bays = s.bays := rfl

@[simp] theorem handDemands_arb : (s.handDemands k).arb = s.arb := rfl

@[simp] theorem raiseBay_bays (n : BayNotice) : (s.raiseBay n k).bays = s.bays := by simp [raiseBay]

@[simp] theorem raiseBay_arb (n : BayNotice) : (s.raiseBay n k).arb = s.arb := by simp [raiseBay]

@[simp] theorem raisePlant_bays (n : PlantNotice) : (s.raisePlant n).bays = s.bays := rfl

@[simp] theorem raisePlant_arb (n : PlantNotice) : (s.raisePlant n).arb = s.arb := rfl

@[simp] theorem reheaterFollow_bays (was : Bool) : (s.reheaterFollow k was).bays = s.bays := by
  unfold reheaterFollow; split
  · split <;> rfl
  · rfl

@[simp] theorem reheaterFollow_arb (was : Bool) : (s.reheaterFollow k was).arb = s.arb := by
  unfold reheaterFollow; split
  · split <;> rfl
  · rfl

@[simp] theorem setReheat_bays (r : Reheat) : (s.setReheat k r).bays = s.bays := by simp [setReheat]

@[simp] theorem setReheat_requests (r : Reheat) : (s.setReheat k r).arb.requests = s.arb.requests := by
  simp [setReheat, Arbiter.setReheat]

@[simp] theorem rotate_requests (a : Arbiter) : (a.rotate k).requests = a.requests := by
  unfold Arbiter.rotate; split <;> rfl

@[simp] theorem placeDry_requests (a : Arbiter) (r : Reheat) : (a.placeDry k r).requests = a.requests := by
  unfold Arbiter.placeDry; split <;> rfl

@[simp] theorem dropEntry_requests (a : Arbiter) : (a.dropEntry k).requests = a.requests.set k none := rfl

theorem grantBay_bay : (s.grantBay k).bay j =
    if j = k then { ((s.bay k).goto .active) with waitElapsed := 0, overheatRun := 0 } else s.bay j := by
  simp only [grantBay, bay, raiseBay_bays, handDemands_bays, mapBay_bays, PerBay.get_modify]
  split
  · rename_i h; rw [h]
  · rfl

@[simp] theorem grantBay_requests : (s.grantBay k).arb.requests = s.arb.requests := by simp [grantBay]

@[simp] theorem decideReheat_bays (boost : Bool) : (s.decideReheat k boost).bays = s.bays := by
  unfold decideReheat; split <;> simp

@[simp] theorem decideReheat_requests (boost : Bool) : (s.decideReheat k boost).arb.requests = s.arb.requests := by
  unfold decideReheat; split <;> simp

@[simp] theorem serveDry_bays (boost : Bool) : (s.serveDry k boost).bays = s.bays := rfl

@[simp] theorem serveDry_requests (boost : Bool) :
    (s.serveDry k boost).arb.requests = s.arb.requests.set k none := by simp [serveDry]

/-- A grant takes the bay to ACTIVE and leaves every other bay alone (R27, R66). -/
theorem grant_bay (e : Entry) : (s.grant k e).bay j =
    if j = k then { ((s.bay k).goto .active) with waitElapsed := 0, overheatRun := 0 } else s.bay j := by
  unfold grant; split
  · simp only [grantSteam, grantBay_bay]; rfl
  · simp only [grantDry, grantBay_bay]; simp only [bay, decideReheat_bays, serveDry_bays]

/-- A grant takes its entry off the list and leaves every other (R66). -/
theorem grant_requests (e : Entry) : (s.grant k e).arb.requests = s.arb.requests.set k none := by
  unfold grant; split
  · simp [grantSteam]
  · simp [grantDry]

end

/-! ## An evaluation leaves a bay without a request -/

@[simp] theorem shedReheat_bays (more : State → Bool) (l : List Bay) : (shedReheat more l s).bays = s.bays := by
  induction l generalizing s with
  | nil => rfl
  | cons j l ih => unfold shedReheat; split <;> simp [ih]

@[simp] theorem shedReheat_requests (more : State → Bool) (l : List Bay) :
    (shedReheat more l s).arb.requests = s.arb.requests := by
  induction l generalizing s with
  | nil => rfl
  | cons j l ih => unfold shedReheat; split <;> simp [ih]

@[simp] theorem upgradeReheat_bays (l : List Bay) : (upgradeReheat l s).bays = s.bays := by
  induction l generalizing s with
  | nil => rfl
  | cons j l ih => unfold upgradeReheat; split <;> simp [ih]

@[simp] theorem upgradeReheat_requests (l : List Bay) : (upgradeReheat l s).arb.requests = s.arb.requests := by
  induction l generalizing s with
  | nil => rfl
  | cons j l ih => unfold upgradeReheat; split <;> simp [ih]

/-- Raising bypass counts adds and removes no entry. -/
theorem raisePassed_none (a : Arbiter) (l : List Bay) (j : Bay) :
    (Arbiter.raisePassed l a).requests.get j = none ↔ a.requests.get j = none := by
  unfold Arbiter.raisePassed
  induction l generalizing a with
  | nil => rfl
  | cons i l ih =>
    rw [List.foldl_cons, ih]
    simp only [PerBay.get_modify]
    split
    · simp
    · rfl

/-- The walk leaves a bay without a request, and gives it none. -/
theorem walk_bay (n : Nat) (j : Bay) (h : s.arb.requests.get j = none) :
    (walk n s).bay j = s.bay j ∧ (walk n s).arb.requests.get j = none := by
  induction n generalizing s with
  | zero => exact ⟨rfl, h⟩
  | succ n ih =>
    have granted : ∀ (t : State) (k : Bay) (e : Entry) (q : List Bay), t.bays = s.bays →
        t.arb.requests = s.arb.requests → s.arb.requests.get k = some e →
        (walk n (t.grantInPass k e q)).bay j = s.bay j ∧ (walk n (t.grantInPass k e q)).arb.requests.get j = none := by
      intro t k e q hb hr hk
      have hjk : j ≠ k := by rintro rfl; rw [h] at hk; cases hk
      have hg : (t.grantInPass k e q).arb.requests.get j = none := by
        unfold grantInPass
        rw [grant_requests, PerBay.get_set, if_neg hjk, mapArb_arb, raisePassed_none, hr, h]
      have hbay : (t.grantInPass k e q).bay j = s.bay j := by
        unfold grantInPass
        rw [grant_bay, if_neg hjk, mapArb_bay]
        simp only [bay, hb]
      have := ih _ hg
      rw [hbay] at this
      exact this
    have hp := s.pass_spec s.arb.ring []
    unfold walk
    split <;> rename_i heq <;> rw [heq] at hp
    · exact granted s _ _ _ rfl rfl hp.2.1
    · exact ⟨by simp [bay], by simpa using h⟩
    · split
      · exact granted _ _ _ _ (by simp) (by simp) hp.2.1
      · exact ⟨rfl, h⟩

/-- An evaluation leaves a bay without a request. -/
theorem evaluate_bay (j : Bay) (h : s.arb.requests.get j = none) :
    s.evaluate.bay j = s.bay j ∧ s.evaluate.arb.requests.get j = none := by
  unfold evaluate
  have := walk_bay (s.mapArb Arbiter.evaluating) 5 j h
  simpa using this

/-- So does the evaluation that closes an event. -/
theorem settle_bay (j : Bay) (h : s.arb.requests.get j = none) :
    s.settle.bay j = s.bay j ∧ s.settle.arb.requests.get j = none := by
  unfold settle; split
  · exact s.evaluate_bay j h
  · exact ⟨rfl, h⟩

/-- With no DRY slot held no reheat is upgraded. -/
theorem upgradeReheat_none (l : List Bay) (hA : s.arb.slotA = none) (hB : s.arb.slotB = none) :
    upgradeReheat l s = s := by
  have hr : ∀ k : Bay, s.arb.reheatOf k = none := by
    intro k; simp [Arbiter.reheatOf, Arbiter.slotHeldBy, hA, hB]
  induction l with
  | nil => rfl
  | cons j l ih => unfold upgradeReheat; rw [if_neg (by rw [hr]; simp), ih]

/-- With no entry eligible and no DRY slot held an evaluation changes nothing but the mark that one was owed. -/
theorem evaluate_idle (h : ∀ k e, s.arb.requests.get k = some e → s.eligible k e = false)
    (hA : s.arb.slotA = none) (hB : s.arb.slotB = none) :
    s.evaluate = s.mapArb Arbiter.evaluating := by
  have hp := pass_ends (s.mapArb Arbiter.evaluating) (s.mapArb Arbiter.evaluating).arb.ring [] h
  unfold evaluate walk
  rw [hp]
  exact upgradeReheat_none _ _ hA hB

/-- In UNCOMMISSIONED no entry is eligible (R59, R60). -/
theorem eligible_uncommissioned (h : s.arb.commissioning = .uncommissioned) (k : Bay) (e : Entry) :
    s.eligible k e = false := by
  unfold eligible; simp [h]

/-- The evaluation of an event owes nothing afterwards, where it owed. -/
theorem settle_of_not_owed (h : s.arb.evalOwed = false) : s.settle = s := by
  unfold settle; rw [h]; rfl

end Sys2Proof.Machine.State
end

