-- ==== Sys2Proof/Laws/Grants.lean ====
section
/-!
SUPPORT. What an evaluation does to the rest of the state: it only grants (R62 to R66).
-/

namespace Sys2Proof.Machine.State

variable (s : State)

/-! ## What an evaluation may do -/

theorem OnlyGrants.refl : s.OnlyGrants s where
  stable := rfl
  idle := fun _ _ => ⟨rfl, rfl, rfl, rfl, rfl, rfl⟩
  waiting := fun _ e h => .inl ⟨rfl, e.bypass, h⟩
  row := fun _ => rfl
  steam := fun _ => rfl
  slotA := fun _ => rfl
  slotB := fun _ => rfl
  dry := fun _ => rfl
  notices := fun _ => rfl
  draw := fun h => h
  newRow := fun h => absurd rfl h
  newSlot := fun h => absurd rfl h

variable {s}

theorem OnlyGrants.isSome_slotA {t : State} (h : s.OnlyGrants t) (hs : s.arb.slotA ≠ none) : t.arb.slotA ≠ none := by
  have := h.slotA hs
  intro hn; rw [hn] at this
  cases ha : s.arb.slotA with
  | none => exact hs ha
  | some d => rw [ha] at this; cases this

theorem OnlyGrants.isSome_slotB {t : State} (h : s.OnlyGrants t) (hs : s.arb.slotB ≠ none) : t.arb.slotB ≠ none := by
  have := h.slotB hs
  intro hn; rw [hn] at this
  cases ha : s.arb.slotB with
  | none => exact hs ha
  | some d => rw [ha] at this; cases this

/-- The number of holders never falls. -/
theorem OnlyGrants.dryHolders_le {t : State} (h : s.OnlyGrants t) : s.arb.dryHolders ≤ t.arb.dryHolders := by
  have hA := h.isSome_slotA; have hB := h.isSome_slotB
  unfold Arbiter.dryHolders
  cases ha : s.arb.slotA <;> cases hb : s.arb.slotB <;> cases ha' : t.arb.slotA <;> cases hb' : t.arb.slotB <;>
    simp_all

theorem OnlyGrants.trans {t u : State} (h : s.OnlyGrants t) (g : t.OnlyGrants u) : s.OnlyGrants u where
  stable := g.stable.trans h.stable
  idle := fun j hj => by
    have a := h.idle j hj
    have b := g.idle j (by rw [a.request, hj])
    refine ⟨b.bay.trans a.bay, b.request.trans a.request, b.steam.trans a.steam, b.dry.trans a.dry, ?_,
      b.notices.trans a.notices⟩
    rw [b.air, a.air]
  waiting := fun j e he => by
    rcases h.waiting j e he with ⟨hb, b, hr⟩ | ⟨hr, hb, hg⟩
    · rcases g.waiting j _ hr with ⟨gb, c, gr⟩ | ⟨gr, gb, gg⟩
      · exact .inl ⟨gb.trans hb, c, gr⟩
      · exact .inr ⟨gr, by rw [gb, hb], gg⟩
    · have k := g.idle j hr
      refine .inr ⟨k.request.trans hr, k.bay.trans hb, ?_⟩
      revert hg; cases e.resource
      · intro hg; exact k.steam.trans hg
      · intro hg; exact k.dry.trans hg
  row := fun hs => by
    have := h.row hs
    exact (g.row (by rw [this]; exact hs)).trans this
  steam := fun hu => by
    have ht : t.arb.steamRow = s.arb.steamRow := by
      by_cases hs : s.arb.steamRow = none
      · by_cases ht : t.arb.steamRow = none
        · rw [ht, hs]
        · exact absurd ((g.row ht).symm.trans (hu.trans hs)) ht
      · exact h.row hs
    exact (g.steam (hu.trans ht.symm)).trans (h.steam ht)
  slotA := fun hs => (g.slotA (h.isSome_slotA hs)).trans (h.slotA hs)
  slotB := fun hs => (g.slotB (h.isSome_slotB hs)).trans (h.slotB hs)
  dry := fun hu => by
    have h1 := h.dryHolders_le; have h2 := g.dryHolders_le
    have ht : t.arb.dryHolders = s.arb.dryHolders := by omega
    have a := h.dry ht; have b := g.dry (by omega)
    have : { u.dry with air := s.dry.air } = { ({ u.dry with air := t.dry.air } : DryingCircuit) with air := s.dry.air } := rfl
    rw [this, b, a]
  notices := fun q => by rw [g.notices q, h.notices q]
  draw := fun hd => g.draw (h.draw hd)
  newRow := fun hu => by
    have hst := h.stable
    simp only [State.stable, Stable.mk.injEq] at hst
    by_cases ht : t.arb.steamRow = s.arb.steamRow
    · have := g.newRow (by rw [ht]; exact hu)
      rw [h.steam ht, hst.2.2.2.1, hst.2.2.2.2.2.2.2.2.2.1] at this
      exact this
    · exact h.newRow ht
  newSlot := fun hu => by
    have hst := h.stable
    simp only [State.stable, Stable.mk.injEq] at hst
    by_cases ht : t.arb.dryHolders = s.arb.dryHolders
    · have := g.newSlot (by rw [ht]; exact hu)
      rw [hst.2.2.2.1, hst.2.2.2.2.2.2.2.2.2.1] at this
      exact this
    · exact h.newSlot ht

/-! ## Each operation of an evaluation -/

variable (s)

/-- A change of reheat status leaves holders, requests and rows. -/
theorem slotWith_bay (k : Bay) (r : Reheat) (d : Option DrySlot) :
    (Arbiter.slotWith k r d).map (·.bay) = d.map (·.bay) := by
  unfold Arbiter.slotWith Arbiter.slotHeldBy
  cases d with
  | none => rfl
  | some d => dsimp only; split
              · rename_i h; simp at h; simp [h]
              · rfl

theorem slotHeldBy_of_bay {d e : Option DrySlot} (h : d.map (·.bay) = e.map (·.bay)) (k : Bay) :
    Arbiter.slotHeldBy k d = Arbiter.slotHeldBy k e := by
  cases d <;> cases e <;> simp_all [Arbiter.slotHeldBy]

theorem isSome_of_bay {d e : Option DrySlot} (h : d.map (·.bay) = e.map (·.bay)) : d.isSome = e.isSome := by
  cases d <;> cases e <;> simp_all

@[simp] theorem reheaterFollow_ports (k : Bay) (was : Bool) : (s.reheaterFollow k was).ports = s.ports := by
  unfold reheaterFollow; split
  · split <;> rfl
  · rfl

@[simp] theorem reheaterFollow_steam (k : Bay) (was : Bool) : (s.reheaterFollow k was).steam = s.steam := by
  unfold reheaterFollow; split
  · split <;> rfl
  · rfl

/-- The reheater of one bay moves, and nothing else of the drying circuit. -/
theorem reheaterFollow_air (k j : Bay) (was : Bool) :
    (s.reheaterFollow k was).air j = { s.air j with reheater := ((s.reheaterFollow k was).air j).reheater } := by
  unfold reheaterFollow; split
  · split
    · rfl
    · rw [mapAir_air]; split <;> rfl
  · rw [mapAir_air]; split <;> rfl

theorem reheaterFollow_dry (k : Bay) (was : Bool) : { (s.reheaterFollow k was).dry with air := s.dry.air } = s.dry := by
  unfold reheaterFollow; split
  · split <;> rfl
  · rfl

theorem setReheat_onlyGrants (k : Bay) (r : Reheat) : s.OnlyGrants (s.setReheat k r) := by
  have hA : (s.setReheat k r).arb.slotA = Arbiter.slotWith k r s.arb.slotA := by simp [setReheat, refreshDraw, Arbiter.setReheat]
  have hB : (s.setReheat k r).arb.slotB = Arbiter.slotWith k r s.arb.slotB := by simp [setReheat, refreshDraw, Arbiter.setReheat]
  have hrow : (s.setReheat k r).arb.steamRow = s.arb.steamRow := by simp [setReheat, refreshDraw, Arbiter.setReheat]
  have hp : (s.setReheat k r).ports = s.ports := by simp [setReheat, refreshDraw]
  have hq : ∀ q, (s.setReheat k r).port q = s.port q := by intro q; cases q <;> simp [port, hp]
  have hst : (s.setReheat k r).steam = s.steam := by simp [setReheat, refreshDraw]
  have ha : ∀ j, (s.setReheat k r).air j = { s.air j with reheater := ((s.setReheat k r).air j).reheater } := by
    intro j; unfold setReheat refreshDraw; simp only [mapArb_air]
    rw [reheaterFollow_air]; rfl
  have hb : ∀ j, (s.setReheat k r).bay j = s.bay j := by intro j; simp [bay]
  have hd : ∀ j, (s.setReheat k r).arb.holdsDry j = s.arb.holdsDry j := by
    intro j; simp only [Arbiter.holdsDry, hA, hB, slotHeldBy_of_bay (slotWith_bay k r _)]
  refine ⟨setReheat_stable s k r, ?_, ?_, fun _ => hrow, fun _ => hst, ?_, ?_, ?_, ?_, ?_,
    fun h => absurd hrow h, fun h => absurd ?_ h⟩
  · intro j hj
    exact ⟨hb j, by simp, by simp only [Arbiter.holdsSteam, hrow], hd j, ha j, by rw [hq]⟩
  · intro j e he
    exact .inl ⟨hb j, e.bypass, by simpa using he⟩
  · intro _; rw [hA, slotWith_bay]
  · intro _; rw [hB, slotWith_bay]
  · intro _; unfold setReheat refreshDraw; simp only [mapArb_dry]; exact reheaterFollow_dry _ k _
  · intro q; rw [hq]
  · intro _; rfl
  · simp only [Arbiter.dryHolders, hA, hB, isSome_of_bay (slotWith_bay k r _)]

theorem evaluating_onlyGrants : s.OnlyGrants (s.mapArb Arbiter.evaluating) where
  stable := mapArb_stable s rfl
  idle := fun _ _ => ⟨rfl, rfl, rfl, rfl, rfl, by simp⟩
  waiting := fun _ e h => .inl ⟨rfl, e.bypass, h⟩
  row := fun _ => rfl
  steam := fun _ => rfl
  slotA := fun _ => rfl
  slotB := fun _ => rfl
  dry := fun _ => rfl
  notices := fun _ => by simp
  draw := fun h => h
  newRow := fun h => absurd rfl h
  newSlot := fun h => absurd rfl h

/-- That an event owes an evaluation changes nothing else. -/
theorem owe_onlyGrants : s.OnlyGrants (s.mapArb Arbiter.owe) where
  stable := mapArb_stable s rfl
  idle := fun _ _ => ⟨rfl, rfl, rfl, rfl, rfl, by simp⟩
  waiting := fun _ e h => .inl ⟨rfl, e.bypass, h⟩
  row := fun _ => rfl
  steam := fun _ => rfl
  slotA := fun _ => rfl
  slotB := fun _ => rfl
  dry := fun _ => rfl
  notices := fun _ => by simp
  draw := fun h => h
  newRow := fun h => absurd rfl h
  newSlot := fun h => absurd rfl h

/-- Raising bypass counts changes nothing else of an entry, and nothing else of the arbiter. -/
theorem raisePassed_requests (a : Arbiter) (l : List Bay) :
    (∃ r, Arbiter.raisePassed l a = { a with requests := r }) ∧ ∀ j e, a.requests.get j = some e →
      ∃ b, (Arbiter.raisePassed l a).requests.get j = some { e with bypass := b } := by
  unfold Arbiter.raisePassed
  induction l generalizing a with
  | nil => exact ⟨⟨a.requests, rfl⟩, fun j e h => ⟨e.bypass, h⟩⟩
  | cons i l ih =>
    rw [List.foldl_cons]
    obtain ⟨⟨r, hr⟩, hw⟩ := ih { a with requests := a.requests.modify i (Option.map Entry.raise) }
    refine ⟨⟨r, hr⟩, ?_⟩
    intro j e he
    by_cases hj : j = i
    · obtain ⟨b, hb⟩ := hw j e.raise (by simp [PerBay.get_modify, hj] at he ⊢; simp [he])
      exact ⟨b, hb⟩
    · obtain ⟨b, hb⟩ := hw j e (by simp [PerBay.get_modify, hj, he])
      exact ⟨b, hb⟩

theorem raisePassed_onlyGrants (l : List Bay) : s.OnlyGrants (s.mapArb (Arbiter.raisePassed l)) := by
  obtain ⟨⟨r, hr⟩, hw⟩ := raisePassed_requests s.arb l
  have hn := raisePassed_none s.arb l
  refine ⟨mapArb_stable s (by simp), ?_, ?_, ?_, fun _ => rfl, ?_, ?_, fun _ => rfl, fun _ => by simp, ?_,
    fun h => absurd ?_ h, fun h => absurd ?_ h⟩
  · intro j hj
    refine ⟨rfl, ?_, ?_, ?_, rfl, by simp⟩
    · rw [hj]; exact (hn j).mpr hj
    · simp only [mapArb_arb, hr]; rfl
    · simp only [mapArb_arb, hr]; rfl
  · intro j e he
    exact .inl ⟨rfl, hw j e he⟩
  all_goals simp only [mapArb_arb, mapArb_dry, hr]
  · exact fun _ => trivial
  · exact fun _ => trivial
  · exact fun _ => trivial
  · exact fun h => h
  · rfl


/-- A grant's notice: GRANT alone may change. -/
theorem raiseBay_notices (n : BayNotice) (k : Bay) (q : Port) : ((s.raiseBay n k).port q).notices =
    if q = .bay k ∨ q = .service then (s.port q).notices.addBay n k else (s.port q).notices := by
  unfold raiseBay
  rw [mapPort_port]
  split
  · rename_i h; subst h; simp [mapPort_port]
  · rename_i h; rw [mapPort_port]; simp only [h, or_false]; split <;> rfl

/-- Where two circuits agree but for the bays' air handling. -/
theorem grantBay_air (k j : Bay) : (s.grantBay k).air j = if j = k then demanded ((s.grantBay k).bay k) (s.air k) else s.air j := by
  have h1 : (s.grantBay k).air j = (((s.mapBay k fun b => { (b.goto .active) with waitElapsed := 0, overheatRun := 0 }).handDemands k)).air j := by
    simp [grantBay, air, raiseBay]
  rw [h1]; unfold handDemands; rw [mapAir_air]
  split
  · rename_i h; subst h; rw [grantBay_bay]; simp [demanded]
  · rfl

theorem grantBay_notices (k : Bay) (q : Port) : ((s.grantBay k).port q).notices =
    if q = .bay k ∨ q = .service then (s.port q).notices.addBay .grant k else (s.port q).notices := by
  unfold grantBay; rw [raiseBay_notices]; simp [handDemands]

@[simp] theorem grantBay_arb (k : Bay) : (s.grantBay k).arb = s.arb := by simp [grantBay]

@[simp] theorem grantBay_steam (k : Bay) : (s.grantBay k).steam = s.steam := by simp [grantBay, raiseBay, handDemands]

theorem grantBay_dry (k : Bay) : { (s.grantBay k).dry with air := s.dry.air } = s.dry := by
  simp [grantBay, raiseBay, handDemands]

theorem rotate_fields (k : Bay) (a : Arbiter) : ∃ r, a.rotate k = { a with ring := r } := by
  unfold Arbiter.rotate; split
  · exact ⟨_, rfl⟩
  · exact ⟨a.ring, rfl⟩

/-- A grant of STEAM to a free row does what an evaluation may do. -/
theorem grantSteam_onlyGrants (k : Bay) (e : Entry) (he : s.arb.requests.get k = some e) (hr : e.resource = .steam)
    (hrow : s.arb.steamRow = none)
    (hnew : s.arb.commissioning = .commissioned ∧ s.steam.gen ≠ .tripped ∧ s.water.reservoirLow = false) :
    s.OnlyGrants (s.grantSteam k) := by
  obtain ⟨r, hrot⟩ := rotate_fields k { s.arb.dropEntry k with steamRow := some k }
  have harb : (s.grantSteam k).arb = { s.arb with
      requests := s.arb.requests.set k none, steamRow := some k, ring := r,
      committed := (s.grantSteam k).arb.draw s.dry.comp } := by
    simp only [grantSteam, grantBay_arb, refreshDraw, mapArb_arb, mapSteam_arb, mapSteam_dry, mapArb_dry, hrot]
    rfl
  have hair : ∀ j, j ≠ k → (s.grantSteam k).air j = s.air j := by
    intro j hj; unfold grantSteam; rw [grantBay_air, if_neg hj]; rfl
  have hbay : ∀ j, (s.grantSteam k).bay j =
      if j = k then { ((s.bay k).goto .active) with waitElapsed := 0, overheatRun := 0 } else s.bay j := by
    intro j; have := grant_bay s k j e; unfold grant at this; rw [hr] at this; exact this
  have hn : ∀ q, ((s.grantSteam k).port q).notices =
      if q = .bay k ∨ q = .service then (s.port q).notices.addBay .grant k else (s.port q).notices := by
    intro q; unfold grantSteam; rw [grantBay_notices]; simp [refreshDraw]
  refine ⟨grantSteam_stable s k, ?_, ?_, fun h => absurd hrow h, ?_, ?_, ?_, ?_, ?_, ?_, fun _ => hnew,
    fun h => absurd ?_ h⟩
  · intro j hj
    have hjk : j ≠ k := by rintro rfl; rw [hj] at he; cases he
    refine ⟨by rw [hbay, if_neg hjk], ?_, ?_, ?_, by rw [hair j hjk], ?_⟩
    · rw [harb]; simp [hjk]
    · rw [harb]; simp only [Arbiter.holdsSteam, hrow]; simp [Ne.symm hjk]
    · rw [harb]; rfl
    · rw [hn]; simp [hjk]
  · intro j f hf
    by_cases hjk : j = k
    · subst hjk
      rw [he] at hf; cases hf
      refine .inr ⟨by rw [harb]; simp, by rw [hbay, if_pos rfl]; rfl, ?_⟩
      rw [hr]; rw [harb]; simp [Arbiter.holdsSteam]
    · exact .inl ⟨by rw [hbay, if_neg hjk], f.bypass, by rw [harb]; simp [hjk, hf]⟩
  · intro h; rw [harb, hrow] at h; cases h
  · intro _; rw [harb]
  · intro _; rw [harb]
  · intro _; unfold grantSteam; exact grantBay_dry _ k
  · intro q; rw [hn]; split <;> rfl
  · intro _
    have hc : (s.grantSteam k).dry.comp = s.dry.comp := by simp [grantSteam, grantBay, handDemands, raiseBay, refreshDraw]
    rw [hc]; unfold grantSteam; rw [grantBay_arb]; rfl
  · rw [harb]; rfl

/-- A grant of DRY to a free slot does what an evaluation may do. -/
theorem grantDry_onlyGrants (k : Bay) (e : Entry) (boost : Bool) (he : s.arb.requests.get k = some e)
    (hr : e.resource = .dry) (hfree : s.arb.slotA = none ∨ s.arb.slotB = none)
    (hnew : s.arb.commissioning = .commissioned ∧ s.water.condensateFull = false) :
    s.OnlyGrants (s.grantDry k boost) := by
  -- the grant up to the reheat decision
  have hserve : ∃ r, (s.serveDry k boost).arb = { (s.arb.placeDry k (if boost then .pending else .notAsked)) with
      requests := s.arb.requests.set k none, ring := r, committed := (s.serveDry k boost).arb.committed } := by
    obtain ⟨r, hrot⟩ := rotate_fields k ((s.arb.dropEntry k).placeDry k (if boost then .pending else .notAsked))
    refine ⟨r, ?_⟩
    simp only [serveDry, refreshDraw, mapArb_arb, mapAir_arb, mapDry_arb, hrot]
    unfold Arbiter.placeDry; split <;> rename_i h <;> simp only [Arbiter.dropEntry] at h <;> simp [h, Arbiter.dropEntry]
  obtain ⟨r, hserve⟩ := hserve
  have hdec : (s.serveDry k boost).OnlyGrants ((s.serveDry k boost).decideReheat k boost) := by
    unfold decideReheat; split
    · exact setReheat_onlyGrants _ _ _
    · exact OnlyGrants.refl _
  have hA : (s.serveDry k boost).arb.slotA = (s.arb.placeDry k (if boost then .pending else .notAsked)).slotA := by rw [hserve]
  have hB : (s.serveDry k boost).arb.slotB = (s.arb.placeDry k (if boost then .pending else .notAsked)).slotB := by rw [hserve]
  have hrow : (s.serveDry k boost).arb.steamRow = s.arb.steamRow := by
    rw [hserve]; unfold Arbiter.placeDry; split <;> rfl
  have hreq : (s.serveDry k boost).arb.requests = s.arb.requests.set k none := by simp
  have hports : ∀ q, (s.serveDry k boost).port q = s.port q := by
    intro q; cases q <;> rfl
  have hairS : ∀ j, j ≠ k → (s.serveDry k boost).air j = s.air j := by
    intro j hj; simp only [serveDry, refreshDraw, mapArb_air, mapAir_air, if_neg hj]
    unfold air; simp only [mapDry_dry, mapArb_dry]
    unfold DryingCircuit.onGrant DryingCircuit.startRunning; split <;> (try split) <;> rfl
  have hstS : (s.serveDry k boost).steam = s.steam := rfl
  have hcompS : (s.serveDry k boost).arb.committed = (s.serveDry k boost).arb.draw (s.serveDry k boost).dry.comp := rfl
  -- which slot was taken
  have hslots : (s.arb.slotA = none ∧ (s.serveDry k boost).arb.slotA.map (·.bay) = some k ∧ (s.serveDry k boost).arb.slotB = s.arb.slotB) ∨
      (s.arb.slotA ≠ none ∧ s.arb.slotB = none ∧ (s.serveDry k boost).arb.slotA = s.arb.slotA ∧
        (s.serveDry k boost).arb.slotB.map (·.bay) = some k) := by
    rw [hA, hB]; unfold Arbiter.placeDry
    cases ha : s.arb.slotA with
    | none => left; simp
    | some d =>
      right
      have hb : s.arb.slotB = none := by rcases hfree with h | h; (rw [ha] at h; cases h); exact h
      simp [hb]
  have hgd : s.grantDry k boost = ((s.serveDry k boost).decideReheat k boost).grantBay k := rfl
  -- the parts after the whole grant
  generalize hT : (s.serveDry k boost).decideReheat k boost = T at hdec hgd
  have hTreq : T.arb.requests = s.arb.requests.set k none := by rw [← hT]; simp
  have hTrow : T.arb.steamRow = s.arb.steamRow := by
    rw [← hrow, ← hT]; unfold decideReheat; split
    · simp [setReheat, refreshDraw, Arbiter.setReheat]
    · rfl
  have hTA : T.arb.slotA.map (·.bay) = (s.serveDry k boost).arb.slotA.map (·.bay) := by
    rw [← hT]; unfold decideReheat; split
    · simp [setReheat, refreshDraw, Arbiter.setReheat, slotWith_bay]
    · rfl
  have hTB : T.arb.slotB.map (·.bay) = (s.serveDry k boost).arb.slotB.map (·.bay) := by
    rw [← hT]; unfold decideReheat; split
    · simp [setReheat, refreshDraw, Arbiter.setReheat, slotWith_bay]
    · rfl
  have hTbay : ∀ j, T.bay j = s.bay j := by intro j; rw [← hT]; simp [bay]
  have hTair : ∀ j, j ≠ k → T.air j = { s.air j with reheater := (T.air j).reheater } := by
    intro j hj
    rw [← hairS j hj, ← hT]; unfold decideReheat; split
    · unfold setReheat refreshDraw; simp only [mapArb_air]; rw [reheaterFollow_air]; rfl
    · rfl
  have hTport : ∀ q, T.port q = s.port q := by
    intro q; rw [← hports q, ← hT]; unfold decideReheat; split
    · cases q <;> simp [port, setReheat, refreshDraw]
    · rfl
  have hTsteam : T.steam = s.steam := by
    rw [← hstS, ← hT]; unfold decideReheat; split
    · simp [setReheat, refreshDraw]
    · rfl
  have hTdraw : T.arb.committed = T.arb.draw T.dry.comp := hdec.draw hcompS
  have hTst : T.stable = s.stable := by rw [← hT]; simp
  have hheld : ∀ j, T.arb.holdsDry j = (s.serveDry k boost).arb.holdsDry j := by
    intro j; simp only [Arbiter.holdsDry, slotHeldBy_of_bay hTA, slotHeldBy_of_bay hTB]
  rw [hgd]
  refine ⟨by rw [grantBay_stable, hTst], ?_, ?_, ?_, ?_, ?_, ?_, ?_, ?_, ?_, fun h => absurd ?_ h, fun _ => hnew⟩
  · intro j hj
    have hjk : j ≠ k := by rintro rfl; rw [hj] at he; cases he
    refine ⟨by rw [grantBay_bay, if_neg hjk, hTbay], by rw [grantBay_arb, hTreq]; simp [hjk], ?_, ?_, ?_, ?_⟩
    · rw [grantBay_arb]; simp only [Arbiter.holdsSteam, hTrow]
    · rw [grantBay_arb, hheld]
      simp only [Arbiter.holdsDry]
      rcases hslots with ⟨h1, h2, h3⟩ | ⟨h1, h2, h3, h4⟩
      · rw [h3, h1]
        have : Arbiter.slotHeldBy j (s.serveDry k boost).arb.slotA = false := by
          cases hc : (s.serveDry k boost).arb.slotA with
          | none => rfl
          | some d => rw [hc] at h2; simp at h2; simp [Arbiter.slotHeldBy, h2, Ne.symm hjk]
        rw [this]; rfl
      · rw [h3, h2]
        have : Arbiter.slotHeldBy j (s.serveDry k boost).arb.slotB = false := by
          cases hc : (s.serveDry k boost).arb.slotB with
          | none => rfl
          | some d => rw [hc] at h4; simp at h4; simp [Arbiter.slotHeldBy, h4, Ne.symm hjk]
        rw [this]; rfl
    · rw [grantBay_air, if_neg hjk]; exact hTair j hjk
    · rw [grantBay_notices, hTport]; simp [hjk]
  · intro j f hf
    by_cases hjk : j = k
    · subst hjk
      rw [he] at hf; cases hf
      refine .inr ⟨by rw [grantBay_arb, hTreq]; simp, by rw [grantBay_bay, if_pos rfl, hTbay]; rfl, ?_⟩
      rw [hr, grantBay_arb, hheld]
      simp only [Arbiter.holdsDry]
      rcases hslots with ⟨h1, h2, h3⟩ | ⟨h1, h2, h3, h4⟩
      · cases hc : (s.serveDry j boost).arb.slotA with
        | none => rw [hc] at h2; cases h2
        | some d => rw [hc] at h2; simp at h2; simp [Arbiter.slotHeldBy, h2]
      · cases hc : (s.serveDry j boost).arb.slotB with
        | none => rw [hc] at h4; cases h4
        | some d => rw [hc] at h4; simp at h4; simp [Arbiter.slotHeldBy, h4]
    · exact .inl ⟨by rw [grantBay_bay, if_neg hjk, hTbay], f.bypass, by rw [grantBay_arb, hTreq]; simp [hjk, hf]⟩
  · intro _; rw [grantBay_arb, hTrow]
  · intro _; rw [grantBay_steam, hTsteam]
  · intro h; rw [grantBay_arb, hTA]
    rcases hslots with ⟨h1, _⟩ | ⟨_, _, h3, _⟩
    · exact absurd h1 h
    · rw [h3]
  · intro h; rw [grantBay_arb, hTB]
    rcases hslots with ⟨_, _, h3⟩ | ⟨_, h2, _⟩
    · rw [h3]
    · exact absurd h2 h
  · intro h
    exfalso
    rw [grantBay_arb] at h
    unfold Arbiter.dryHolders at h
    rw [isSome_of_bay hTA, isSome_of_bay hTB] at h
    rcases hslots with ⟨h1, h2, h3⟩ | ⟨h1, h2, h3, h4⟩
    · cases hc : (s.serveDry k boost).arb.slotA with
      | none => rw [hc] at h2; cases h2
      | some d => rw [h3, h1, hc] at h; simp at h
    · cases hc : (s.serveDry k boost).arb.slotB with
      | none => rw [hc] at h4; cases h4
      | some d => rw [h3, h2, hc] at h; simp at h
  · intro q; rw [grantBay_notices, hTport]; split <;> rfl
  · intro _; rw [grantBay_arb]; rw [hTdraw]
    have : (T.grantBay k).dry.comp = T.dry.comp := by simp [grantBay, handDemands, raiseBay]
    rw [this]
  · rw [grantBay_arb, hTrow]

/-- A grant of an eligible entry does what an evaluation may do. -/
theorem grant_onlyGrants (k : Bay) (e : Entry) (he : s.arb.requests.get k = some e) (hel : s.eligible k e = true) :
    s.OnlyGrants (s.grant k e) := by
  unfold grant; unfold eligible at hel
  cases hr : e.resource with
  | steam =>
    simp only [hr, Bool.and_eq_true, Option.isNone_iff_eq_none, decide_eq_true_eq, Bool.not_eq_true'] at hel
    exact grantSteam_onlyGrants s k e he hr hel.2.1.1 ⟨hel.1.1, hel.2.1.2, hel.2.2⟩
  | dry =>
    simp only [hr, Bool.and_eq_true, Bool.or_eq_true, Option.isNone_iff_eq_none, decide_eq_true_eq,
      Bool.not_eq_true'] at hel
    exact grantDry_onlyGrants s k e e.boost he hr hel.2.1 ⟨hel.1.1, hel.2.2⟩

theorem shedReheat_onlyGrants (more : State → Bool) (l : List Bay) : s.OnlyGrants (shedReheat more l s) := by
  induction l generalizing s with
  | nil => exact OnlyGrants.refl s
  | cons j l ih =>
    unfold shedReheat; split
    · exact (setReheat_onlyGrants s j .pending).trans (ih _)
    · exact ih s

theorem upgradeReheat_onlyGrants (l : List Bay) : s.OnlyGrants (upgradeReheat l s) := by
  induction l generalizing s with
  | nil => exact OnlyGrants.refl s
  | cons j l ih =>
    unfold upgradeReheat; split
    · exact (setReheat_onlyGrants s j .on).trans (ih _)
    · exact ih s

/-- Eligibility reads nothing that reheat or a bypass count changes. -/
theorem eligible_congr {t : State} (h : s.OnlyGrants t) (hrow : t.arb.steamRow = s.arb.steamRow)
    (hA : t.arb.slotA.map (·.bay) = s.arb.slotA.map (·.bay)) (hB : t.arb.slotB.map (·.bay) = s.arb.slotB.map (·.bay))
    (k : Bay) {e f : Entry} (hef : f.resource = e.resource) : t.eligible k f = s.eligible k e := by
  have hst := h.steam hrow
  have hs := h.stable
  simp only [stable, Stable.mk.injEq] at hs
  have hA' : t.arb.slotA.isNone = s.arb.slotA.isNone := by
    have := isSome_of_bay hA; cases h1 : t.arb.slotA <;> cases h2 : s.arb.slotA <;> simp_all
  have hB' : t.arb.slotB.isNone = s.arb.slotB.isNone := by
    have := isSome_of_bay hB; cases h1 : t.arb.slotB <;> cases h2 : s.arb.slotB <;> simp_all
  unfold eligible
  rw [hef, hrow, hst, hA', hB', hs.2.2.2.1, hs.2.2.2.2.2.2.2.2.2.1, hs.2.2.2.2.2.2.2.2.2.2.2.1]

/-- Only the reheat statuses have changed. -/
theorem shedReheat_slots (more : State → Bool) (l : List Bay) :
    (shedReheat more l s).arb.steamRow = s.arb.steamRow ∧
    (shedReheat more l s).arb.slotA.map (·.bay) = s.arb.slotA.map (·.bay) ∧
    (shedReheat more l s).arb.slotB.map (·.bay) = s.arb.slotB.map (·.bay) := by
  induction l generalizing s with
  | nil => exact ⟨rfl, rfl, rfl⟩
  | cons j l ih =>
    unfold shedReheat; split
    · obtain ⟨h1, h2, h3⟩ := ih (s.setReheat j .pending)
      refine ⟨h1.trans (by simp [setReheat, refreshDraw, Arbiter.setReheat]), h2.trans ?_, h3.trans ?_⟩ <;>
        simp [setReheat, refreshDraw, Arbiter.setReheat, slotWith_bay]
    · exact ih s

theorem grantInPass_onlyGrants (k : Bay) (e : Entry) (q : List Bay) (he : s.arb.requests.get k = some e)
    (hel : s.eligible k e = true) : s.OnlyGrants (s.grantInPass k e q) := by
  have h1 := raisePassed_onlyGrants s q
  obtain ⟨⟨r, hr⟩, hw⟩ := raisePassed_requests s.arb q
  obtain ⟨b, hb⟩ := hw k e he
  refine h1.trans ?_
  have hg := grant_onlyGrants (s.mapArb (Arbiter.raisePassed q)) k { e with bypass := b } hb
    ((eligible_congr s h1 (by simp [hr]) (by simp [hr]) (by simp [hr]) k rfl).trans hel)
  unfold grantInPass
  exact hg

theorem walk_onlyGrants (n : Nat) : s.OnlyGrants (walk n s) := by
  induction n generalizing s with
  | zero => exact OnlyGrants.refl s
  | succ n ih =>
    have hp := s.pass_spec s.arb.ring []
    unfold walk
    split <;> rename_i heq <;> rw [heq] at hp
    · exact (grantInPass_onlyGrants s _ _ _ hp.2.1 hp.2.2.1).trans (ih _)
    · exact upgradeReheat_onlyGrants s _
    · split
      · rename_i k e q _
        have h1 := shedReheat_onlyGrants s (fun t => !t.fits e) s.arb.ring.reverse
        obtain ⟨g1, g2, g3⟩ := shedReheat_slots s (fun t => !t.fits e) s.arb.ring.reverse
        refine (h1.trans (grantInPass_onlyGrants _ k e q (by simpa using hp.2.1) ?_)).trans (ih _)
        rw [eligible_congr s h1 g1 g2 g3 k rfl]; exact hp.2.2.1
      · exact OnlyGrants.refl s

/-- An evaluation does only what R62 to R66 let it. -/
theorem evaluate_onlyGrants : s.OnlyGrants s.evaluate :=
  (evaluating_onlyGrants s).trans (walk_onlyGrants _ 5)

/-- So does the evaluation that closes an event. -/
theorem settle_onlyGrants : s.OnlyGrants s.settle := by
  unfold settle; split
  · exact evaluate_onlyGrants s
  · exact OnlyGrants.refl s

/-- A change of R62 and its evaluation. -/
theorem oweAndSettle_onlyGrants : s.OnlyGrants s.oweAndSettle :=
  (owe_onlyGrants s).trans (settle_onlyGrants _)

end Sys2Proof.Machine.State
end

