-- ==== Sys2Proof/Laws/LetGo.lean ====
section
/-!
SUPPORT. What a bay leaves behind when it lets go of its grant and its request, and how a step is entered (R21 to R24, R67).
-/

namespace Sys2Proof.Machine.State

variable (s : State) (k : Bay)

/-! ## A release (R67) -/

@[simp] theorem endSteam_bays : (s.endSteam k).bays = s.bays := rfl
@[simp] theorem endDry_bays : (s.endDry k).bays = s.bays := rfl
@[simp] theorem endSteam_ports : (s.endSteam k).ports = s.ports := rfl
@[simp] theorem endDry_ports : (s.endDry k).ports = s.ports := rfl

/-- A release clears the row or the slot, ends the grant at its unit, and leaves the rest. -/
structure Released (s u : State) (k : Bay) : Prop where
  stable  : u.stable = s.stable
  bays    : u.bays = s.bays
  ports   : u.ports = s.ports
  request : u.arb.requests = s.arb.requests
  ring    : u.arb.ring = s.arb.ring
  row     : u.arb.steamRow = if s.arb.holdsSteam k then none else s.arb.steamRow
  steam   : u.steam = if s.arb.holdsSteam k then s.steam.endGrant s.arb.settings k else s.steam
  slots   : (u.arb.slotA, u.arb.slotB) = s.slotsLeft k
  dry     : { u.dry with air := s.dry.air } =
    if s.endsDry k then s.dry.onRelease s.arb.settings u.arb.dryHolders else s.dry
  air     : ∀ j, u.air j =
    if j = k ∧ s.endsDry k then { (s.air k).closeDamper with reheater := false } else s.air j
  draw    : s.arb.committed = s.arb.draw s.dry.comp → u.arb.committed = u.arb.draw u.dry.comp

theorem onRelease_air (d : DryingCircuit) (st : Settings) (n : Nat) (a : PerBay AirBay) :
    { (({ d with air := a } : DryingCircuit).onRelease st n) with air := d.air } = d.onRelease st n := by
  obtain ⟨comp, minOff, minRun, speed, air⟩ := d
  cases comp <;>
    simp only [DryingCircuit.onRelease, DryingCircuit.minRunElapsed, DryingCircuit.stop, DryingCircuit.leaveStartWait]
  · split <;> rfl
  · split
    · cases minRun with
      | none => rfl
      | some m => cases m <;> rfl
    · rfl

theorem onRelease_keeps_air (d : DryingCircuit) (st : Settings) (n : Nat) : (d.onRelease st n).air = d.air := by
  unfold DryingCircuit.onRelease DryingCircuit.stop DryingCircuit.leaveStartWait
  split <;> (try split) <;> (try split) <;> rfl

theorem release_spec : s.Released (s.release k) k := by
  unfold release
  by_cases hs : s.arb.holdsSteam k = true
  · have he : s.endsDry k = false := by simp [endsDry, hs]
    rw [if_pos hs]
    refine ⟨by simp, rfl, rfl, rfl, rfl, ?_, ?_, ?_, ?_, ?_, fun _ => rfl⟩
    · rw [if_pos hs]; rfl
    · rw [if_pos hs]; rfl
    · unfold slotsLeft; rw [he]; rfl
    · rw [he]; rfl
    · intro j; rw [he]; simp; rfl
  · have hs' : s.arb.holdsSteam k = false := by simpa using hs
    rw [if_neg hs]
    by_cases hd : s.arb.holdsDry k = true
    · have he : s.endsDry k = true := by simp [endsDry, hs', hd]
      rw [if_pos hd]
      refine ⟨by simp, rfl, rfl, rfl, rfl, ?_, ?_, ?_, ?_, ?_, fun _ => rfl⟩
      · rw [if_neg hs]; rfl
      · rw [if_neg hs]; rfl
      · unfold slotsLeft; rw [he]; rfl
      · rw [he]; exact onRelease_air _ _ _ _
      · intro j
        have : ((s.endDry k).mapArb Arbiter.owe).air j = (s.clearDrySlot k).air j := by
          simp only [endDry, refreshDraw, mapArb_air]; unfold air; simp only [mapDry_dry]; rw [onRelease_keeps_air]
        rw [this]; unfold clearDrySlot; rw [mapAir_air]; simp only [he, and_true]
        by_cases hj : j = k
        · subst hj; simp
        · simp [hj]
    · have hd' : s.arb.holdsDry k = false := by simpa using hd
      have he : s.endsDry k = false := by simp [endsDry, hd']
      rw [if_neg hd]
      refine ⟨rfl, rfl, rfl, rfl, rfl, ?_, ?_, ?_, ?_, ?_, fun h => h⟩
      · rw [if_neg hs]
      · rw [if_neg hs]
      · unfold slotsLeft; rw [he]; rfl
      · rw [he]; rfl
      · intro j; rw [he]; simp

/-! ## From a release to the bay's event -/

/-- A change of the bay's context, its demands handed on, a kind raised: what follows a release within its event. -/
theorem Released.letsGo {s u : State} {k : Bay} (h : s.Released u k) (req : Option Entry)
    (v : State) (raise : NoticeSet → NoticeSet)
    (hst : v.stable = u.stable) (hbay : ∀ j, j ≠ k → v.bay j = u.bay j)
    (harb : ∃ r e, v.arb = { u.arb with requests := r, evalOwed := e })
    (hreq : v.arb.requests.get k = req) (hreqs : ∀ j, j ≠ k → v.arb.requests.get j = u.arb.requests.get j)
    (hsteam : v.steam = u.steam) (hdry : { v.dry with air := u.dry.air } = u.dry)
    (hair : ∀ j, v.air j = if j = k then demanded (v.bay k) (u.air k) else u.air j)
    (hn : u.NoticesOf v k raise) : s.LetsGo v k req raise := by
  obtain ⟨r, e, harb⟩ := harb
  have hrow : v.arb.steamRow = u.arb.steamRow := by rw [harb]
  have hA : v.arb.slotA = u.arb.slotA := by rw [harb]
  have hB : v.arb.slotB = u.arb.slotB := by rw [harb]
  have hring : v.arb.ring = u.arb.ring := by rw [harb]
  have hcom : v.arb.committed = u.arb.committed := by rw [harb]
  have hset : v.arb.settings = u.arb.settings := by rw [harb]
  have hhold : v.arb.dryHolders = u.arb.dryHolders := by simp [Arbiter.dryHolders, hA, hB]
  have hcomp : v.dry.comp = u.dry.comp := by rw [← hdry]
  have hbay' : ∀ j, u.bay j = s.bay j := by intro j; simp [bay, h.bays]
  have hport : ∀ q, u.port q = s.port q := by intro q; cases q <;> simp [port, h.ports]
  refine ⟨hst.trans h.stable, ?_, hreq, hring.trans h.ring, by rw [hrow, h.row], by rw [hsteam, h.steam], by rw [hA, hB, h.slots], ?_, ?_, ?_, ?_⟩
  · intro j hj
    refine ⟨(hbay j hj).trans (hbay' j), ?_, by rw [hreqs j hj, h.request]⟩
    rw [hair, if_neg hj, h.air]; simp [hj]
  · rw [hhold, ← h.dry]
    have : ({ v.dry with air := s.dry.air } : DryingCircuit) = { ({ v.dry with air := u.dry.air } : DryingCircuit) with air := s.dry.air } := rfl
    rw [this, hdry]
  · rw [hair, if_pos rfl, h.air]; simp
  · intro q; rw [hn q, hport]
  · intro hd; rw [hcom, h.draw hd, hcomp]; unfold Arbiter.draw Arbiter.compressorCounted; rw [hset, hrow, hA, hB]

/-- A state that differs from `s` by bay `k`'s entry alone lets go in the same way. -/
theorem LetsGo.of_request {s w v : State} {k : Bay} {req : Option Entry} {raise : NoticeSet → NoticeSet}
    (h : w.LetsGo v k req raise) (hw : ∃ r e, w = s.mapArb (fun a => { a with requests := r, evalOwed := e }) ∧
      ∀ j, j ≠ k → r.get j = s.arb.requests.get j) : s.LetsGo v k req raise := by
  obtain ⟨r, e, rfl, hr⟩ := hw
  refine ⟨h.stable.trans (mapArb_stable s rfl), ?_, h.request, h.ring, h.row, h.steam, h.slots, h.dry, h.air, ?_, h.draw⟩
  · intro j hj
    obtain ⟨h1, h2, h3⟩ := h.others j hj
    exact ⟨h1, h2, h3.trans (hr j hj)⟩
  · intro q; rw [h.notices q]; simp

/-- The bay's context changes and its demands are handed on. -/
theorem Released.demands {s u : State} {k : Bay} (h : s.Released u k) (f : BayContext → BayContext) :
    s.LetsGo ((u.mapBay k f).handDemands k) k (s.arb.requests.get k) id :=
  h.letsGo _ _ id (by simp) (fun j hj => by simp [bay, hj]) ⟨_, _, rfl⟩ (by simp [h.request]) (fun _ _ => rfl)
    (by simp [handDemands]) (by simp [handDemands])
    (fun j => by simp only [handDemands, mapAir_air]; split
                 · rename_i e; subst e; rfl
                 · rfl)
    (fun q => by simp [handDemands])

/-- A kind is raised for the bay in the same event. -/
theorem LetsGo.raise {s v : State} {k : Bay} {req : Option Entry} (h : s.LetsGo v k req id) (n : BayNotice) :
    s.LetsGo (v.raiseBay n k) k req (NoticeSet.addBay n k) := by
  have ha : ∀ j, (v.raiseBay n k).air j = v.air j := by intro j; simp [raiseBay]
  have hb : ∀ j, (v.raiseBay n k).bay j = v.bay j := by intro j; simp [bay]
  have hs : (v.raiseBay n k).steam = v.steam := by simp [raiseBay]
  have hd : (v.raiseBay n k).dry = v.dry := by simp [raiseBay]
  refine ⟨by rw [raiseBay_stable, h.stable], ?_, by rw [raiseBay_arb]; exact h.request, by rw [raiseBay_arb]; exact h.ring, by rw [raiseBay_arb]; exact h.row,
    by rw [hs]; exact h.steam, by rw [raiseBay_arb]; exact h.slots, by rw [hd, raiseBay_arb]; exact h.dry,
    by rw [ha, hb]; exact h.air, ?_, by rw [raiseBay_arb, hd]; exact h.draw⟩
  · intro j hj; rw [hb, ha, raiseBay_arb]; exact h.others j hj
  · intro q; rw [raiseBay_notices]
    have := h.notices q; simp only [id_eq, ite_self] at this
    split <;> rw [this]

/-- A release within the bay's own event. -/
theorem release_letsGo (f : BayContext → BayContext) :
    s.LetsGo (((s.release k).mapBay k f).handDemands k) k (s.arb.requests.get k) id := (release_spec s k).demands f

theorem withdraw_eq : ∃ e, s.withdraw k = s.mapArb fun a => { a with requests := s.arb.requests.set k none, evalOwed := e } := by
  unfold withdraw
  by_cases h : (s.arb.requests.get k).isSome = true
  · refine ⟨true, ?_⟩
    have : Arbiter.withdraw k s.arb = { s.arb with requests := s.arb.requests.set k none, evalOwed := true } := by
      simp [Arbiter.withdraw, h, Arbiter.owe, Arbiter.dropEntry]
    simp only [mapArb, this]
  · refine ⟨s.arb.evalOwed, ?_⟩
    have hn : s.arb.requests.set k none = s.arb.requests := by
      apply PerBay.ext_get; intro j; simp only [PerBay.get_set]; split
      · rename_i e; subst e; simpa using (Option.not_isSome_iff_eq_none.mp h).symm
      · rfl
    have : Arbiter.withdraw k s.arb = { s.arb with requests := s.arb.requests.set k none, evalOwed := s.arb.evalOwed } := by
      simp [Arbiter.withdraw, h, hn]
    simp only [mapArb, this]

/-- Request and grant given up within the bay's own event (R38, R40, R43). -/
theorem giveUp_letsGo (f : BayContext → BayContext) :
    s.LetsGo (((s.giveUp k).mapBay k f).handDemands k) k none id := by
  obtain ⟨e, he⟩ := withdraw_eq s k
  have h := release_letsGo (s.withdraw k) k f
  rw [show (s.withdraw k).arb.requests.get k = none by rw [he]; simp] at h
  exact h.of_request ⟨_, e, he, fun j hj => by simp [hj]⟩

/-- What a bay holds is not its context's affair. -/
theorem giveUp_bay : (((s.giveUp k).mapBay k f).handDemands k).bay k = f (s.bay k) := by
  have : (s.giveUp k).bay k = s.bay k := by
    obtain ⟨e, he⟩ := withdraw_eq s k
    simp only [giveUp, bay, (release_spec _ k).bays]; rw [he]; rfl
  simp [bay] at this ⊢; rw [this]

theorem release_bay (f : BayContext → BayContext) :
    (((s.release k).mapBay k f).handDemands k).bay k = f (s.bay k) := by
  have : (s.release k).bay k = s.bay k := by simp only [bay, (release_spec s k).bays]
  simp [bay] at this ⊢; rw [this]

/-! ## Finish and halt (R36, R43) -/

theorem finishBay_letsGo : s.LetsGo (s.finishBay k) k (s.arb.requests.get k) (NoticeSet.addBay .finish k) :=
  (release_letsGo s k _).raise .finish

theorem finishBay_bay : (s.finishBay k).bay k = (s.bay k).finish := by
  have := release_bay s k BayContext.finish
  simpa [finishBay, bay] using this

theorem haltBay_letsGo (f : BayFault) : s.LetsGo (s.haltBay k f) k none (NoticeSet.addBay .halt k) :=
  (giveUp_letsGo s k _).raise .halt

theorem haltBay_bay (f : BayFault) : (s.haltBay k f).bay k = (s.bay k).halt f := by
  have := giveUp_bay s k (f := BayContext.halt f)
  simpa [haltBay, bay] using this

/-! ## A step entry (R21 to R24) -/

/-- A state whose bay `k` alone has another context lets go in the same way. -/
theorem LetsGo.of_mapBay {s v : State} {k : Bay} {req : Option Entry} {raise : NoticeSet → NoticeSet}
    {f : BayContext → BayContext} (h : (s.mapBay k f).LetsGo v k req raise) : s.LetsGo v k req raise := by
  refine ⟨h.stable.trans (by simp), ?_, h.request, h.ring, h.row, h.steam, h.slots, h.dry, h.air, ?_, h.draw⟩
  · intro j hj
    obtain ⟨h1, h2, h3⟩ := h.others j hj
    exact ⟨h1.trans (by simp [hj]), h2, h3⟩
  · intro q; rw [h.notices q]; simp

theorem setRemaining_currentStep (b : BayContext) (fresh : Bool) : (b.setRemaining fresh).currentStep = b.currentStep := rfl

/-- The entry with the door open: everything let go, HELD (R21). -/
theorem enterStep_open (fresh : Bool) (h : (s.bay k).door = .opened) :
    s.LetsGo (s.enterStep k fresh) k (s.arb.requests.get k) id ∧
    (s.enterStep k fresh).bay k = ((s.bay k).setRemaining fresh).goto .held := by
  have hd : ((s.mapBay k (BayContext.setRemaining fresh)).bay k).door = .opened := by simp [bay] at h ⊢; exact h
  have he : s.enterStep k fresh = (((s.mapBay k (BayContext.setRemaining fresh)).release k).mapBay k (BayContext.goto .held)).handDemands k := by
    unfold enterStep; dsimp only; rw [if_pos hd]
  rw [he]
  refine ⟨(release_letsGo _ k _).of_mapBay, ?_⟩
  rw [release_bay]; simp

/-- The entry of a step without a resource: everything let go, ACTIVE at once (R24). -/
theorem enterStep_plain (fresh : Bool) (r : StepRecord) (h : (s.bay k).door = .shut) (hr : (s.bay k).currentStep = some r)
    (hk : r.kind.resource = none) :
    s.LetsGo (s.enterStep k fresh) k (s.arb.requests.get k) id ∧
    (s.enterStep k fresh).bay k = ((s.bay k).setRemaining fresh).goto .active := by
  have hd : ((s.mapBay k (BayContext.setRemaining fresh)).bay k).door ≠ .opened := by
    have : ((s.mapBay k (BayContext.setRemaining fresh)).bay k).door = (s.bay k).door := by simp; rfl
    rw [this, h]; decide
  have hr' : ((s.mapBay k (BayContext.setRemaining fresh)).bay k).currentStep = some r := by simp; exact hr
  have he : s.enterStep k fresh = (((s.mapBay k (BayContext.setRemaining fresh)).release k).mapBay k (BayContext.goto .active)).handDemands k := by
    unfold enterStep; dsimp only; rw [if_neg hd, hr']; dsimp only; unfold enterClosed; rw [hk]; rfl
  rw [he]
  refine ⟨(release_letsGo _ k _).of_mapBay, ?_⟩
  rw [release_bay]; simp

/-- The entry of a step that carries its resource over (R22, R23). -/
theorem enterStep_carried (fresh : Bool) (r : StepRecord) (q : Resource) (h : (s.bay k).door = .shut)
    (hr : (s.bay k).currentStep = some r) (hk : r.kind.resource = some q) (hh : s.holds k q = true) :
    s.enterStep k fresh =
      (((s.mapBay k (BayContext.setRemaining fresh)).carryOver k r).activate k).handDemands k := by
  have hd : ((s.mapBay k (BayContext.setRemaining fresh)).bay k).door ≠ .opened := by
    have : ((s.mapBay k (BayContext.setRemaining fresh)).bay k).door = (s.bay k).door := by simp; rfl
    rw [this, h]; decide
  have hr' : ((s.mapBay k (BayContext.setRemaining fresh)).bay k).currentStep = some r := by simp; exact hr
  have hh' : (s.mapBay k (BayContext.setRemaining fresh)).holds k q = true := by cases q <;> exact hh
  unfold enterStep; dsimp only; rw [if_neg hd, hr']; dsimp only; unfold enterClosed; rw [hk]; dsimp only
  rw [hh']; rfl

/-- The entry of a STEAM or DRY step that carries nothing over: the other grant let go, the request posted, AWAIT (R22). -/
theorem enterStep_await (fresh : Bool) (r : StepRecord) (q : Resource) (h : (s.bay k).door = .shut)
    (hr : (s.bay k).currentStep = some r) (hk : r.kind.resource = some q) (hh : s.holds k q = false) :
    s.LetsGo (s.enterStep k fresh) k (some (Entry.fresh q (decide (q = .dry) && r.boost))) id ∧
    (s.enterStep k fresh).bay k = { (((s.bay k).setRemaining fresh).goto .await) with waitElapsed := 0 } := by
  have hd : ((s.mapBay k (BayContext.setRemaining fresh)).bay k).door ≠ .opened := by
    have : ((s.mapBay k (BayContext.setRemaining fresh)).bay k).door = (s.bay k).door := by simp; rfl
    rw [this, h]; decide
  have hr' : ((s.mapBay k (BayContext.setRemaining fresh)).bay k).currentStep = some r := by simp; exact hr
  have hh' : (s.mapBay k (BayContext.setRemaining fresh)).holds k q = false := by cases q <;> exact hh
  have he : s.enterStep k fresh = ((((s.mapBay k (BayContext.setRemaining fresh)).release k).mapBay k fun b =>
      { (b.goto .await) with waitElapsed := 0 }).postRequest k).handDemands k := by
    unfold enterStep; dsimp only; rw [if_neg hd, hr']; dsimp only; unfold enterClosed; rw [hk]; dsimp only
    rw [hh']; rfl
  -- the post
  have hrel := release_spec (s.mapBay k (BayContext.setRemaining fresh)) k
  have hcur : ((((s.mapBay k (BayContext.setRemaining fresh)).release k).mapBay k fun b =>
      { (b.goto .await) with waitElapsed := 0 }).bay k).currentStep = some r := by
    have : ((s.mapBay k (BayContext.setRemaining fresh)).release k).bay k = (s.mapBay k (BayContext.setRemaining fresh)).bay k := by
      simp only [bay, hrel.bays]
    rw [mapBay_bay, if_pos rfl, this]; exact hr'
  have hpost : (((s.mapBay k (BayContext.setRemaining fresh)).release k).mapBay k fun b =>
      { (b.goto .await) with waitElapsed := 0 }).postRequest k =
      (((s.mapBay k (BayContext.setRemaining fresh)).release k).mapBay k fun b =>
        { (b.goto .await) with waitElapsed := 0 }).mapArb (Arbiter.post k q (decide (q = .dry) && r.boost)) := by
    unfold postRequest; rw [hcur]; dsimp only; rw [hk]
    cases q <;> rfl
  rw [he, hpost]
  refine ⟨LetsGo.of_mapBay (hrel.letsGo _
    ((((s.mapBay k (BayContext.setRemaining fresh)).release k).mapBay k fun b =>
        { (b.goto .await) with waitElapsed := 0 }).mapArb
          (Arbiter.post k q (decide (q = .dry) && r.boost)) |>.handDemands k)
    id ?_ ?_ ⟨_, _, rfl⟩ ?_ ?_ ?_ ?_ ?_ ?_), ?_⟩
  · rw [handDemands_stable, mapArb_stable _ (by simp), mapBay_stable]
  · intro j hj; simp [bay, hj]
  · simp [Arbiter.post, Arbiter.owe, Entry.fresh]
  · intro j hj; simp [Arbiter.post, Arbiter.owe, hj]
  · simp [handDemands]
  · simp [handDemands]
  · intro j; simp only [handDemands, mapAir_air]; split
    · rename_i e; subst e; rfl
    · rfl
  · intro p; simp [handDemands]
  · have : ((s.mapBay k (BayContext.setRemaining fresh)).release k).bay k = (s.mapBay k (BayContext.setRemaining fresh)).bay k := by
      simp only [bay, hrel.bays]
    simp only [bay, handDemands_bays, mapArb_bays, mapBay_bays] at this ⊢
    rw [PerBay.get_modify, if_pos rfl, this]; simp

/-! ## The evaluation that a bay's event calls for (R62) -/

/-- An evaluation does not ask whether it was owed. -/
theorem evaluate_owed (b : Bool) : ({ s with arb := { s.arb with evalOwed := b } }).evaluate = s.evaluate := rfl

theorem settle_eq : s.settle = if s.arb.evalOwed then s.evaluate else s := rfl

/-- A release calls for an evaluation exactly where there was a grant to release. -/
theorem release_owed : (s.release k).arb.evalOwed = (s.arb.evalOwed || s.holdsGrant k) := by
  unfold release holdsGrant
  by_cases hs : s.arb.holdsSteam k = true
  · rw [if_pos hs, hs]; simp [Arbiter.owe]
  · by_cases hd : s.arb.holdsDry k = true
    · rw [if_neg hs, if_pos hd, hd]; simp [Arbiter.owe]
    · rw [if_neg hs, if_neg hd]; simp [Bool.eq_false_iff.mpr hs, Bool.eq_false_iff.mpr hd]

theorem withdraw_owed : (s.withdraw k).arb.evalOwed = (s.arb.evalOwed || (s.arb.requests.get k).isSome) := by
  by_cases h : (s.arb.requests.get k).isSome = true
  · simp [withdraw, Arbiter.withdraw, h, Arbiter.owe]
  · simp [withdraw, Arbiter.withdraw, h]

theorem withdraw_holdsGrant : (s.withdraw k).holdsGrant k = s.holdsGrant k := by
  obtain ⟨e, he⟩ := withdraw_eq s k; rw [he]; rfl

theorem giveUp_owed : (s.giveUp k).arb.evalOwed = (s.arb.evalOwed || s.claims k) := by
  rw [giveUp, release_owed, withdraw_owed, withdraw_holdsGrant, claims, Bool.or_assoc]

theorem finishBay_owed : (s.finishBay k).arb.evalOwed = (s.arb.evalOwed || s.holdsGrant k) := by
  rw [← release_owed]; simp [finishBay, handDemands]

theorem haltBay_owed (f : BayFault) : (s.haltBay k f).arb.evalOwed = (s.arb.evalOwed || s.claims k) := by
  rw [← giveUp_owed]; simp [haltBay, handDemands]

theorem enterStep_open_owed (fresh : Bool) (h : (s.bay k).door = .opened) :
    (s.enterStep k fresh).arb.evalOwed = (s.arb.evalOwed || s.holdsGrant k) := by
  have hd : ((s.mapBay k (BayContext.setRemaining fresh)).bay k).door = .opened := by simp [bay] at h ⊢; exact h
  unfold enterStep; dsimp only; rw [if_pos hd]
  exact release_owed (s.mapBay k (BayContext.setRemaining fresh)) k

theorem enterStep_plain_owed (fresh : Bool) (r : StepRecord) (h : (s.bay k).door = .shut)
    (hr : (s.bay k).currentStep = some r) (hk : r.kind.resource = none) :
    (s.enterStep k fresh).arb.evalOwed = (s.arb.evalOwed || s.holdsGrant k) := by
  have hd : ((s.mapBay k (BayContext.setRemaining fresh)).bay k).door ≠ .opened := by
    have : ((s.mapBay k (BayContext.setRemaining fresh)).bay k).door = (s.bay k).door := by simp; rfl
    rw [this, h]; decide
  have hr' : ((s.mapBay k (BayContext.setRemaining fresh)).bay k).currentStep = some r := by simp; exact hr
  unfold enterStep; dsimp only; rw [if_neg hd, hr']; dsimp only; unfold enterClosed; rw [hk]
  exact release_owed (s.mapBay k (BayContext.setRemaining fresh)) k

theorem enterStep_await_owed (fresh : Bool) (r : StepRecord) (q : Resource) (h : (s.bay k).door = .shut)
    (hr : (s.bay k).currentStep = some r) (hk : r.kind.resource = some q) (hh : s.holds k q = false) :
    (s.enterStep k fresh).arb.evalOwed = true := by
  have hd : ((s.mapBay k (BayContext.setRemaining fresh)).bay k).door ≠ .opened := by
    have : ((s.mapBay k (BayContext.setRemaining fresh)).bay k).door = (s.bay k).door := by simp; rfl
    rw [this, h]; decide
  have hr' : ((s.mapBay k (BayContext.setRemaining fresh)).bay k).currentStep = some r := by simp; exact hr
  have hh' : (s.mapBay k (BayContext.setRemaining fresh)).holds k q = false := by cases q <;> exact hh
  have hcur : ((((s.mapBay k (BayContext.setRemaining fresh)).release k).mapBay k fun b =>
      { (b.goto .await) with waitElapsed := 0 }).bay k).currentStep = some r := by
    have : ((s.mapBay k (BayContext.setRemaining fresh)).release k).bay k = (s.mapBay k (BayContext.setRemaining fresh)).bay k := by
      simp only [bay, (release_spec _ k).bays]
    rw [mapBay_bay, if_pos rfl, this]; exact hr'
  unfold enterStep; dsimp only; rw [if_neg hd, hr']; dsimp only; unfold enterClosed; rw [hk]; dsimp only
  rw [hh', if_neg Bool.false_ne_true]
  unfold awaitGrant postRequest; rw [hcur]; dsimp only; rw [hk]
  cases q <;> rfl

/-- Whether an evaluation is owed is no part of what a bay lets go. -/
theorem LetsGo.owed {s u : State} {k : Bay} {req : Option Entry} {raise : NoticeSet → NoticeSet} (h : s.LetsGo u k req raise)
    (b : Bool) : s.LetsGo { u with arb := { u.arb with evalOwed := b } } k req raise :=
  ⟨h.stable, h.others, h.request, h.ring, h.row, h.steam, h.slots, h.dry, h.air, h.notices, h.draw⟩

/-- An event in which a bay lets go, closed by the evaluation that it owes. -/
theorem LetsGo.thenSettles {s u : State} {k : Bay} {req : Option Entry} {raise : NoticeSet → NoticeSet} {b : BayContext}
    {asks : Bool} (h : s.LetsGo u k req raise) (hb : u.bay k = b) (ho : u.arb.evalOwed = (s.arb.evalOwed || asks)) :
    s.LetsGoThenSettles u.settle k req raise b asks := by
  refine ⟨{ u with arb := { u.arb with evalOwed := false } }, rfl, h.owed false, hb, ?_⟩
  rw [settle_eq, ho, evaluate_owed]
  cases hx : (s.arb.evalOwed || asks)
  · rw [hx] at ho; simp [← ho]
  · rfl

/-! ## A stall report (R47, R128) -/

/-- A report to a bay that is not ACTIVE has no effect. -/
theorem stallReport_ignored (h : (s.bay k).state ≠ .active) : s.stallReport k = s := by unfold stallReport; rw [if_neg h]

/-- A report to an ACTIVE bay halts it, and the evaluation that this calls for follows. -/
theorem stallReport_halts (h : (s.bay k).state = .active) :
    s.LetsGoThenSettles (s.stallReport k).settle k none (NoticeSet.addBay .halt k) ((s.bay k).halt .fanStall) (s.claims k) := by
  unfold stallReport; rw [if_pos h]
  exact (haltBay_letsGo _ _ _).thenSettles (haltBay_bay _ _ _) (haltBay_owed _ _ _)

end Sys2Proof.Machine.State
end

