-- ==== Sys2Proof/Laws/Scan.lean ====
section
/-!
SUPPORT. The scan complete: what the scanner makes of the codes, and what each consumer leaves as it was (R131 to R137).
-/

namespace Sys2Proof.Machine

/-! ## Clamping -/

theorem clampInt_eq {lo hi : Int} (h : lo ≤ hi) (x : Int) : clampInt lo hi x = max lo (min hi x) := by
  unfold clampInt; split
  · omega
  · split <;> omega

theorem clampNat_eq {lo hi : Nat} (h : lo ≤ hi) (x : Nat) : clampNat lo hi x = max lo (min hi x) := by
  unfold clampNat; split
  · omega
  · split <;> omega

/-! ## The scanner -/

namespace Scanner

variable (sc : Scanner)

theorem setChannel_get (n m : ChannelNo) (f : Channel → Channel) :
    (sc.setChannel n f).channels[m] = if m = n then f sc.channels[m] else sc.channels[m] := by
  unfold setChannel
  by_cases h : m = n
  · subst h; simp
  · have hv : n.val ≠ m.val := fun e => h (Fin.ext e.symm)
    simp [h, hv]

theorem complete_get (n : ChannelNo) : sc.complete.channels[n] = (sc.channels[n]).complete (classOf n) := by
  simp [complete]

/-- The scanner after the conversion of channel 18 (R132, R133). -/
theorem endLast_get (code : Code) (n : ChannelNo) : (sc.endLast code).channels[n] =
    if n = condensateChannel then (sc.channels[n]).judge (classOf n) code else (sc.channels[n]).complete (classOf n) := by
  unfold endLast
  rw [complete_get, setChannel_get]
  split <;> rfl

end Scanner

theorem ext_channels {v w : Vector Channel 19} (h : ∀ n : ChannelNo, v[n] = w[n]) : v = w := by
  apply Vector.ext; intro i hi; exact h ⟨i, hi⟩

namespace State

variable (s : State)

/-- One channel of the scanner replaced is one channel of the part replaced. -/
theorem mapScan_setChannel (n : ChannelNo) (f : Channel → Channel) :
    s.mapScan (Scanner.setChannel n f) = s.withChannel n f := by
  have : (s.scan.setChannel n f).channels = Vector.ofFn fun m => if m = n then f s.scan.channels[m] else s.scan.channels[m] := by
    apply ext_channels; intro m; rw [Scanner.setChannel_get]; simp
  unfold mapScan withChannel
  rw [← this]
  rfl

/-- The conversion of channel 18 ends the scan (R132). -/
theorem endConversion_last (code : Code) (h : s.scan.converting = some condensateChannel) :
    s.endConversion code = s.finishScan code := by
  unfold endConversion; rw [h]; exact if_pos rfl

/-- The conversion of another channel is held, and the next channel follows (R132). -/
theorem endConversion_next (code : Code) (n : ChannelNo) (hn : n.val + 1 < 19) (h : s.scan.converting = some n) :
    s.endConversion code = ({ s with scan := { s.scan with converting := some ⟨n.val + 1, hn⟩ } }).withChannel n
      fun c => { c with inFlight := some code } := by
  have hne : n ≠ condensateChannel := by
    intro e; rw [e] at hn; exact absurd hn (by decide)
  have hc : s.endConversion code = s.mapScan (Scanner.endConversion n code) := by
    unfold endConversion; rw [h]; exact if_neg hne
  rw [hc, ← mapScan_setChannel]
  unfold mapScan Scanner.endConversion Scanner.setChannel
  simp only [dif_pos hn]

/-- No conversion runs: nothing happens (log 7). -/
theorem endConversion_none (code : Code) (h : s.scan.converting = none) : s.endConversion code = s := by
  unfold endConversion; rw [h]

/-! ## The consumers -/

@[simp] theorem scanSteam_stable : s.scanSteam.stable = s.stable := by
  unfold scanSteam; dsimp only; split
  · simp
  · split <;> simp

@[simp] theorem scanReheat_stable (k : Bay) : (s.scanReheat k).stable = s.stable := by
  unfold scanReheat; split <;> simp

@[simp] theorem scanDrying_stable : s.scanDrying.stable = s.stable := by
  unfold scanDrying; simp

@[simp] theorem reportReservoir_stable (b : Bool) : (s.reportReservoir b).stable = s.stable := by
  unfold reportReservoir; split
  · rfl
  · split <;> simp

@[simp] theorem reportCondensate_stable (b : Bool) : (s.reportCondensate b).stable = s.stable := by
  unfold reportCondensate; split
  · rfl
  · split <;> simp

/-- The water inventory's scan changes its own state alone beside what an event may change. -/
theorem scanWater_stable : s.scanWater.stable =
    { s.stable with water := WaterInventory.scan s.arb.settings (s.chan reservoirChannel) (s.chan condensateChannel) s.water } := by
  unfold scanWater; simp; simp [stable]

/-- A bay's scan changes its estimator alone beside what an event may change. -/
theorem scanOneBay_stable (k : Bay) : (s.scanOneBay k).stable = { s.stable with est := (s.scanEstimator k).est } := by
  unfold scanOneBay; simp only [settle_stable, scanBay_stable]
  unfold scanEstimator; split <;> simp [stable]

end State

end Sys2Proof.Machine
end

