-- ==== Sys2Proof/Laws/Timers.lean ====
section
/-!
SUPPORT. An event whose time has not come, and the tick that finds none of them due (log 2, log 3, log 7).
-/

namespace Sys2Proof.Machine.State

variable {s : State}

theorem fillTimeout_not_due (h : s.steam.fillDue = false) : s.fillTimeout = s := by
  unfold fillTimeout; rw [h]; rfl

theorem dryFire_not_due (h : s.steam.dryFireDue = false) : s.dryFire = s := by
  unfold dryFire; rw [h]; rfl

theorem dwellElapsed_not_due (h : s.steam.dwellDue = false) : s.dwellElapsed = s := by
  unfold dwellElapsed; rw [h]; rfl

theorem warmHoldExpiry_not_due (h : s.steam.warmHoldDue = false) : s.warmHoldExpiry = s := by
  unfold warmHoldExpiry; rw [h]; rfl

theorem minOffExpiry_not_due (h : s.dry.minOffDue = false) : s.minOffExpiry = s := by
  unfold minOffExpiry; rw [h]; rfl

theorem minRunExpiry_not_due (h : s.dry.minRunDue = false) : s.minRunExpiry = s := by
  unfold minRunExpiry; rw [h]; rfl

theorem damperTravelEnd_not_due {k : Bay} (h : (s.air k).travelDue = false) : s.damperTravelEnd k = s := by
  unfold damperTravelEnd; rw [h]; rfl

theorem silenceTimeout_not_due {k : Bay} (h : (s.air k).silenceDue = false) (hr : (s.air k).reportDue = false) :
    s.silenceTimeout k = s := by
  unfold silenceTimeout; rw [h, hr]; rfl

theorem spinUpElapsed_not_due {k : Bay} (h : (s.air k).spinUpDue = false) (hr : (s.air k).reportDue = false) :
    s.spinUpElapsed k = s := by
  unfold spinUpElapsed; rw [h, hr]; rfl

theorem waitTimeout_not_due {k : Bay} (h : (s.bay k).waitDue = false) : s.waitTimeout k = s := by
  unfold waitTimeout; rw [h]; rfl

theorem stepEndsOnLimit_not_due {k : Bay} (h : (s.bay k).limitDue = false) : s.stepEndsOnLimit k = s := by
  unfold stepEndsOnLimit; rw [h]; rfl

theorem purgeEnd_not_due {k : Bay} (h : (s.bay k).purgeDue = false) : s.purgeEnd k = s := by
  unfold purgeEnd; rw [h]; rfl

theorem blockingByAge_not_due {k : Bay} (h : ∀ e ∈ s.arb.requests.get k, e.ageMark ≠ .reached) : s.blockingByAge k = s := by
  unfold blockingByAge; split
  · rename_i e he; exact if_neg (h e he)
  · rfl

theorem scanStart_not_due (h : s.scan.startDue = false) : s.scanStart = s := by
  unfold scanStart; rw [h]; rfl

theorem drainProgressCheck_not_due (h : s.water.checkDue = false) : s.drainProgressCheck = s := by
  unfold drainProgressCheck; rw [h]; rfl

theorem doorSettled_not_due {k : Bay} (h : (s.inputs.door.get k).complete = false) : s.doorSettled k = s := by
  unfold doorSettled; rw [h]; rfl

theorem lowSettled_not_due (h : s.inputs.low.complete = false) : s.lowSettled = s := by
  unfold lowSettled; rw [h]; rfl

theorem highSettled_not_due (h : s.inputs.high.complete = false) : s.highSettled = s := by
  unfold highSettled; rw [h]; rfl

/-- Four events that do nothing do nothing. -/
theorem eachBay_idle {event : Bay → State → State} (h : ∀ k, event k s = s) : s.eachBay event = s := by
  unfold eachBay; rw [h, h, h, h]

/-- With nothing due there is no expiry to take. -/
theorem takeExpiries_idle (h : s.NothingDue) : s.takeExpiries = s := by
  obtain ⟨h1, h2, h3, h4, h5, h6, h7, h8, h9, h10, h11, h12, h13, h14⟩ := h
  unfold takeExpiries; dsimp only
  rw [fillTimeout_not_due h1, dryFire_not_due h2, warmHoldExpiry_not_due h4, dwellElapsed_not_due h3,
    minOffExpiry_not_due h5, minRunExpiry_not_due h6, eachBay_idle fun k => damperTravelEnd_not_due (h12 k).1,
    eachBay_idle fun k => silenceTimeout_not_due (h12 k).2.1 (h12 k).2.2.2,
    eachBay_idle fun k => spinUpElapsed_not_due (h12 k).2.2.1 (h12 k).2.2.2,
    eachBay_idle fun k => stepEndsOnLimit_not_due (h13 k).1, eachBay_idle fun k => waitTimeout_not_due (h13 k).2.1,
    eachBay_idle fun k => purgeEnd_not_due (h13 k).2.2, eachBay_idle fun k => blockingByAge_not_due (h14 k),
    drainProgressCheck_not_due h7, eachBay_idle fun k => doorSettled_not_due (h11 k), lowSettled_not_due h9,
    highSettled_not_due h10]

/-- With nothing due a tick settles nothing. -/
theorem takeDue_idle (h : s.NothingDue) : s.takeDue = s := by
  rw [takeDue, takeExpiries_idle h, scanStart_not_due h.2.2.2.2.2.2.2.1]

/-- The counts of a tick owe no evaluation. -/
theorem countTick_owed (lines : Lines) : ((s.sampleInputs lines).countTick).arb.evalOwed = s.arb.evalOwed := rfl

end Sys2Proof.Machine.State
end

