-- ==== Sys2Proof/Laws/Expiries.lean ====
section
/-!
SUPPORT. What waits from the tick before is settled by the rows of log 3, one after another: `takeExpiries` is where they lead.
-/

namespace Sys2Proof.Machine.State

variable (s : State) (k : Bay)

/-! ## Rows one after another -/

variable {s} in
theorem runsTo_cons {i : Instr} {f : State → State} (h : ∀ u, exec i u = .next (f u)) (l : List Instr) (t : State) :
    s.RunsTo (i :: l) t ↔ (f s).RunsTo l t := by
  simp only [RunsTo, h]
  constructor
  · rintro ⟨u, h1, h2⟩; cases h1; exact h2
  · intro h; exact ⟨_, rfl, h⟩

theorem runsTo_append (l m : List Instr) (t : State) : s.RunsTo (l ++ m) t ↔ ∃ u, s.RunsTo l u ∧ u.RunsTo m t := by
  induction l generalizing s with
  | nil => simp [RunsTo]
  | cons i l ih =>
    simp only [List.cons_append, RunsTo, ih]
    constructor
    · rintro ⟨u, h, v, h1, h2⟩; exact ⟨v, ⟨u, h, h1⟩, h2⟩
    · rintro ⟨v, ⟨u, h, h1⟩, h2⟩; exact ⟨u, h, v, h1, h2⟩

/-! ## What is found at a fan (R127, R128) -/

/-- A stall newly found, or one that the tick has found, is reported in the event, and its report is due no longer. -/
theorem findStall_reports (found : AirBay → AirBay)
    (h : (s.air k).reportDue = true ∨ (found (s.air k)).tacho.stalled = true ∧ (s.air k).tacho.stalled = false) :
    s.findStall k found = ((s.mapAir k fun a => (found a).takeReport).stallReport k).settle := by
  unfold findStall; dsimp only; rw [if_pos]
  rcases h with h | ⟨h, h'⟩
  · simp [h]
  · simp [AirBay.takeReport, h, h']

/-- With no report due and no stall newly found, what is found takes its place and nothing is reported. -/
theorem findStall_quiet (found : AirBay → AirBay) (hr : (s.air k).reportDue = false)
    (h : (found (s.air k)).tacho.stalled = true → (s.air k).tacho.stalled = true) :
    s.findStall k found = s.mapAir k fun a => (found a).takeReport := by
  unfold findStall; dsimp only; rw [if_neg]
  cases hs : (found (s.air k)).tacho.stalled <;> simp_all [AirBay.takeReport]

/-! ## What an expiry leaves alone -/

theorem stable_inputs {t : State} (h : t.stable = s.stable) : t.inputs = s.inputs := congrArg Stable.inputs h

@[simp] theorem fillTimeout_stable : s.fillTimeout.stable = s.stable := by unfold fillTimeout; split <;> simp

@[simp] theorem dryFire_stable : s.dryFire.stable = s.stable := by unfold dryFire; split <;> simp

@[simp] theorem warmHoldExpiry_stable : s.warmHoldExpiry.stable = s.stable := by unfold warmHoldExpiry; split <;> simp

@[simp] theorem dwellElapsed_stable : s.dwellElapsed.stable = s.stable := by unfold dwellElapsed; split <;> simp

@[simp] theorem minOffExpiry_stable : s.minOffExpiry.stable = s.stable := by unfold minOffExpiry; split <;> simp

@[simp] theorem minRunExpiry_stable : s.minRunExpiry.stable = s.stable := by unfold minRunExpiry; split <;> simp

@[simp] theorem damperTravelEnd_stable : (s.damperTravelEnd k).stable = s.stable := by
  unfold damperTravelEnd; split <;> simp

@[simp] theorem findStall_stable (found : AirBay → AirBay) : (s.findStall k found).stable = s.stable := by
  unfold findStall; dsimp only; split <;> simp

@[simp] theorem silenceTimeout_stable : (s.silenceTimeout k).stable = s.stable := by unfold silenceTimeout; split <;> simp

@[simp] theorem spinUpElapsed_stable : (s.spinUpElapsed k).stable = s.stable := by unfold spinUpElapsed; split <;> simp

@[simp] theorem stepEndsOnLimit_stable : (s.stepEndsOnLimit k).stable = s.stable := by
  unfold stepEndsOnLimit; split <;> simp

@[simp] theorem waitTimeout_stable : (s.waitTimeout k).stable = s.stable := by unfold waitTimeout; split <;> simp

@[simp] theorem purgeEnd_stable : (s.purgeEnd k).stable = s.stable := by unfold purgeEnd; split <;> simp

@[simp] theorem blockingByAge_stable : (s.blockingByAge k).stable = s.stable := by
  unfold blockingByAge; dsimp only
  split
  · split
    · split
      · rw [oweAndSettle_stable]; exact mapArb_stable s rfl
      · exact mapArb_stable s rfl
    · rfl
  · rfl

theorem eachBay_stable {event : Bay → State → State} (h : ∀ k t, (event k t).stable = t.stable) :
    (s.eachBay event).stable = s.stable := by
  unfold eachBay; simp only [h]

/-- The progress check changes the inventory alone beside what an event may change (R165, R166). -/
theorem drainProgressCheck_stable : s.drainProgressCheck.stable = { s.stable with water := s.drainProgressCheck.water } := by
  have h : ∀ (t : State) (w : WaterInventory → WaterInventory), t.stable = (s.mapWater w).stable →
      t.stable = { s.stable with water := t.water } := by
    intro t w ht
    have hw : t.water = w s.water := congrArg Stable.water ht
    rw [ht, hw]; rfl
  unfold drainProgressCheck drainCheck
  split
  · split
    · exact h _ _ rfl
    · exact h _ WaterInventory.drainFails (by simp)
  · rfl

/-- A door event is its own input's. -/
theorem doorSettled_inputs : (s.doorSettled k).inputs = { s.inputs with door := (s.doorSettled k).inputs.door } ∧
    ∀ j, j ≠ k → (s.doorSettled k).inputs.door.get j = s.inputs.door.get j := by
  have h : ∀ (b : Bool) (t : State), t.stable = (s.setDoorInput k b).stable →
      t.inputs = { s.inputs with door := t.inputs.door } ∧ ∀ j, j ≠ k → t.inputs.door.get j = s.inputs.door.get j := by
    intro b t ht
    have := stable_inputs _ ht
    rw [this]
    exact ⟨rfl, fun j hj => by simp [setDoorInput, hj]⟩
  unfold doorSettled doorOpening doorClosing
  split
  · split
    · split
      · exact h true _ (by simp)
      · exact ⟨rfl, fun _ _ => rfl⟩
    · split
      · exact h false _ (by simp)
      · exact ⟨rfl, fun _ _ => rfl⟩
  · exact ⟨rfl, fun _ _ => rfl⟩

theorem doorSettled_low : (s.doorSettled k).inputs.low = s.inputs.low ∧ (s.doorSettled k).inputs.high = s.inputs.high := by
  rw [(doorSettled_inputs s k).1]; exact ⟨rfl, rfl⟩

theorem doorSettled_stable : (s.doorSettled k).stable = { s.stable with inputs := (s.doorSettled k).inputs } := by
  have h : ∀ (b : Bool) (t : State), t.stable = (s.setDoorInput k b).stable → t.stable = { s.stable with inputs := t.inputs } := by
    intro b t ht
    rw [stable_inputs _ ht, ht]; rfl
  unfold doorSettled doorOpening doorClosing
  split
  · split
    · split
      · exact h true _ (by simp)
      · rfl
    · split
      · exact h false _ (by simp)
      · rfl
  · rfl

theorem lowSettled_stable : s.lowSettled.stable = { s.stable with inputs := s.lowSettled.inputs } := by
  unfold lowSettled lowProbeWet lowProbeDry; split <;> (try split) <;> (try split) <;> rfl

theorem highSettled_stable : s.highSettled.stable = { s.stable with inputs := s.highSettled.inputs } := by
  unfold highSettled highProbeWet highProbeDry; split <;> (try split) <;> (try split) <;> rfl

/-- All the expiries together change the inventory and the inputs alone beside what an event may change. -/
theorem takeExpiries_stable :
    s.takeExpiries.stable = { s.stable with water := s.takeExpiries.water, inputs := s.takeExpiries.inputs } := by
  -- what counts is the rest of the record
  have key : ∀ {t u : State}, ∀ w i, u.stable = { t.stable with water := w, inputs := i } →
      t.stable = { s.stable with water := t.water, inputs := t.inputs } →
      u.stable = { s.stable with water := u.water, inputs := u.inputs } := by
    intro t u w i h1 h2
    have hw : u.water = w := congrArg Stable.water h1
    have hi : u.inputs = i := congrArg Stable.inputs h1
    rw [h1, h2, hw, hi]
  unfold takeExpiries; dsimp only
  refine key _ _ (highSettled_stable _) (key _ _ (lowSettled_stable _) ?_)
  unfold eachBay
  refine key _ _ (doorSettled_stable _ 3) (key _ _ (doorSettled_stable _ 2) (key _ _ (doorSettled_stable _ 1)
    (key _ _ (doorSettled_stable _ 0) (key _ _ (drainProgressCheck_stable _) ?_))))
  have : ∀ t : State, t.stable = s.stable → t.stable = { s.stable with water := t.water, inputs := t.inputs } := by
    intro t h
    have hw : t.water = s.water := congrArg Stable.water h
    rw [h, hw, stable_inputs _ h]; rfl
  apply this; simp

theorem lowSettled_high : s.lowSettled.inputs.high = s.inputs.high := by
  unfold lowSettled lowProbeWet lowProbeDry; split <;> (try split) <;> (try split) <;> rfl

/-! ## The rows of log 3 -/

/-- The door row of bay `k`, where one is due. -/
theorem runsTo_door {u : State} (hu : u.inputs.door.get k = s.inputs.door.get k) (l : List Instr) (t : State) :
    u.RunsTo ((if (s.inputs.door.get k).complete then
      [if (s.inputs.door.get k).level then Instr.doorOpening k else Instr.doorClosing k] else []) ++ l) t ↔
    (u.doorSettled k).RunsTo l t := by
  unfold doorSettled; rw [hu]
  split
  · split
    · exact runsTo_cons (f := doorOpening k) (fun _ => rfl) l t
    · exact runsTo_cons (f := doorClosing k) (fun _ => rfl) l t
  · rfl

theorem runsTo_each {row : Bay → Instr} {f : Bay → State → State} (h : ∀ k u, exec (row k) u = .next (f k u))
    (l : List Instr) (t : State) : s.RunsTo ([row 0, row 1, row 2, row 3] ++ l) t ↔ (s.eachBay f).RunsTo l t := by
  show s.RunsTo (row 0 :: row 1 :: row 2 :: row 3 :: l) t ↔ _
  rw [runsTo_cons (h 0), runsTo_cons (h 1), runsTo_cons (h 2), runsTo_cons (h 3)]; rfl

/-- The rows of log 3 lead to `takeExpiries`, and nowhere else. -/
theorem runsTo_expiryRows (t : State) : s.RunsTo s.expiryRows t ↔ t = s.takeExpiries := by
  unfold expiryRows
  simp only [List.flatten_cons, List.flatten_nil]
  show s.RunsTo (Instr.fillTimeout :: .dryFire :: .warmHoldExpiry :: .dwellElapsed :: .minOffExpiry :: .minRunExpiry :: _) t ↔ _
  rw [runsTo_cons (f := fillTimeout) (fun _ => rfl), runsTo_cons (f := dryFire) (fun _ => rfl),
    runsTo_cons (f := warmHoldExpiry) (fun _ => rfl), runsTo_cons (f := dwellElapsed) (fun _ => rfl),
    runsTo_cons (f := minOffExpiry) (fun _ => rfl), runsTo_cons (f := minRunExpiry) (fun _ => rfl)]
  show State.RunsTo _ ([.damperTravelEnd 0, .damperTravelEnd 1, .damperTravelEnd 2, .damperTravelEnd 3] ++ _) t ↔ _
  rw [runsTo_each _ (f := damperTravelEnd) (fun _ _ => rfl), runsTo_each _ (f := silenceTimeout) (fun _ _ => rfl),
    runsTo_each _ (f := spinUpElapsed) (fun _ _ => rfl), runsTo_each _ (f := stepEndsOnLimit) (fun _ _ => rfl),
    runsTo_each _ (f := waitTimeout) (fun _ _ => rfl), runsTo_each _ (f := purgeEnd) (fun _ _ => rfl),
    runsTo_each _ (f := blockingByAge) (fun _ _ => rfl)]
  show State.RunsTo _ (Instr.drainProgressCheck :: _) t ↔ _
  rw [runsTo_cons (f := drainProgressCheck) (fun _ => rfl)]
  unfold takeExpiries; dsimp only
  generalize hb : ((((((((s.fillTimeout.dryFire.warmHoldExpiry.dwellElapsed.minOffExpiry.minRunExpiry.eachBay
    damperTravelEnd).eachBay silenceTimeout).eachBay spinUpElapsed).eachBay stepEndsOnLimit).eachBay waitTimeout).eachBay
    purgeEnd).eachBay blockingByAge).drainProgressCheck) = b
  have hin : b.inputs = s.inputs := by
    have : ∀ t : State, t.drainProgressCheck.inputs = t.inputs := fun t => congrArg Stable.inputs t.drainProgressCheck_stable
    rw [← hb, this]; exact stable_inputs _ (by simp [eachBay])
  have h0 := doorSettled_inputs b 0
  have h1 := doorSettled_inputs (b.doorSettled 0) 1
  have h2 := doorSettled_inputs ((b.doorSettled 0).doorSettled 1) 2
  have h3 := doorSettled_inputs (((b.doorSettled 0).doorSettled 1).doorSettled 2) 3
  show b.RunsTo ((if (s.inputs.door.get 0).complete then _ else _) ++ _) t ↔ _
  rw [runsTo_door s 0 (by rw [hin]), runsTo_door s 1 (by rw [h0.2 1 (by decide), hin]),
    runsTo_door s 2 (by rw [h1.2 2 (by decide), h0.2 2 (by decide), hin]),
    runsTo_door s 3 (by rw [h2.2 3 (by decide), h1.2 3 (by decide), h0.2 3 (by decide), hin])]
  show State.RunsTo (b.eachBay doorSettled) _ t ↔ _
  have hl : (b.eachBay doorSettled).inputs.low = s.inputs.low := by
    unfold eachBay; rw [(doorSettled_low _ 3).1, (doorSettled_low _ 2).1, (doorSettled_low _ 1).1, (doorSettled_low _ 0).1, hin]
  have hh : (b.eachBay doorSettled).inputs.high = s.inputs.high := by
    unfold eachBay; rw [(doorSettled_low _ 3).2, (doorSettled_low _ 2).2, (doorSettled_low _ 1).2, (doorSettled_low _ 0).2, hin]
  generalize b.eachBay doorSettled = d at hl hh ⊢
  have hlow : ∀ l, d.RunsTo ((if s.inputs.low.complete then [if s.inputs.low.level then Instr.lowProbeWet else .lowProbeDry]
      else []) ++ l) t ↔ d.lowSettled.RunsTo l t := by
    intro l; unfold lowSettled; rw [hl]; split
    · split
      · exact runsTo_cons (f := lowProbeWet) (fun _ => rfl) l t
      · exact runsTo_cons (f := lowProbeDry) (fun _ => rfl) l t
    · rfl
  rw [hlow]
  have hh' : d.lowSettled.inputs.high = s.inputs.high := by rw [lowSettled_high, hh]
  unfold highSettled; rw [hh']
  split
  · split
    · rw [List.append_nil]; exact runsTo_cons (f := highProbeWet) (fun _ => rfl) [] t
    · rw [List.append_nil]; exact runsTo_cons (f := highProbeDry) (fun _ => rfl) [] t
  · rfl

/-- With the start of a scan after them they lead to `takeDue`. -/
theorem runsTo_due (t : State) : s.RunsTo (s.expiryRows ++ [.scanStart]) t ↔ t = s.takeDue := by
  rw [runsTo_append]
  simp only [runsTo_expiryRows, exists_eq_left]
  rw [runsTo_cons (f := scanStart) (fun _ => rfl)]; rfl

end Sys2Proof.Machine.State
end

