-- ==== Sys2Proof/Laws/Walk.lean ====
section
/-!
SUPPORT. The walk as passes of which each grant takes one entry (R63), what is owed along it (R62), and the reheat upgrade and
shed as so many steps from the front of a list (R81, R87, R88).
-/

namespace Sys2Proof.Machine.State

variable (s : State)

/-! ## What is owed along a walk -/

section

variable (k : Bay)

theorem rotate_owed (a : Arbiter) : (a.rotate k).evalOwed = a.evalOwed := by unfold Arbiter.rotate; split <;> rfl

theorem placeDry_owed (a : Arbiter) (r : Reheat) : (a.placeDry k r).evalOwed = a.evalOwed := by
  unfold Arbiter.placeDry; split <;> rfl

theorem raisePassed_owed (a : Arbiter) (l : List Bay) : (Arbiter.raisePassed l a).evalOwed = a.evalOwed := by
  unfold Arbiter.raisePassed
  induction l generalizing a with
  | nil => rfl
  | cons j l ih => rw [List.foldl_cons, ih]

@[simp] theorem setReheat_owed (r : Reheat) : (s.setReheat k r).arb.evalOwed = s.arb.evalOwed := by
  simp [setReheat, refreshDraw, Arbiter.setReheat]

theorem decideReheat_owed (boost : Bool) : (s.decideReheat k boost).arb.evalOwed = s.arb.evalOwed := by
  unfold decideReheat; split <;> simp

theorem grant_owed (e : Entry) : (s.grant k e).arb.evalOwed = s.arb.evalOwed := by
  unfold grant; split
  · simp only [grantSteam, grantBay, raiseBay_arb, handDemands_arb, mapBay_arb, refreshDraw, mapArb_arb, mapSteam_arb, rotate_owed]
    rfl
  · simp only [grantDry, grantBay, raiseBay_arb, handDemands_arb, mapBay_arb, decideReheat_owed, serveDry, refreshDraw,
      mapArb_arb, mapAir_arb, mapDry_arb, rotate_owed, placeDry_owed]
    rfl

theorem grantInPass_owed (e : Entry) (q : List Bay) : (s.grantInPass k e q).arb.evalOwed = s.arb.evalOwed := by
  unfold grantInPass; rw [grant_owed, mapArb_arb, raisePassed_owed]

end

@[simp] theorem shedReheat_owed (more : State → Bool) (l : List Bay) :
    (shedReheat more l s).arb.evalOwed = s.arb.evalOwed := by
  induction l generalizing s with
  | nil => rfl
  | cons j l ih => unfold shedReheat; split <;> simp [ih]

@[simp] theorem upgradeReheat_owed (l : List Bay) : (upgradeReheat l s).arb.evalOwed = s.arb.evalOwed := by
  induction l generalizing s with
  | nil => rfl
  | cons j l ih => unfold upgradeReheat; split <;> simp [ih]

@[simp] theorem walk_owed (n : Nat) : (walk n s).arb.evalOwed = s.arb.evalOwed := by
  induction n generalizing s with
  | zero => rfl
  | succ n ih =>
    unfold walk; split
    · rw [ih, grantInPass_owed]
    · simp
    · split
      · rw [ih, grantInPass_owed, shedReheat_owed]
      · rfl

/-- An evaluation owes nothing afterwards (R62). -/
theorem evaluate_not_owed : s.evaluate.arb.evalOwed = false := by unfold evaluate; rw [walk_owed]; rfl

/-! ## Enough passes (R63) -/

/-- How many entries the list holds. -/
def entries (s : State) : Nat := ([0, 1, 2, 3] : List Bay).countP fun k => (s.arb.requests.get k).isSome

theorem entries_le : s.entries ≤ 4 := by unfold entries; exact List.countP_le_length

theorem entries_congr {s t : State} (h : ∀ k, (t.arb.requests.get k).isSome = (s.arb.requests.get k).isSome) :
    t.entries = s.entries := by
  unfold entries; exact List.countP_congr (by intro k _; rw [h])

/-- A grant takes one entry from the list. -/
theorem entries_grantInPass {s t : State} {k : Bay} {e : Entry} (q : List Bay) (h : s.arb.requests.get k = some e)
    (ht : t.arb.requests = s.arb.requests) : (t.grantInPass k e q).entries + 1 = s.entries := by
  have hg : ∀ j, ((t.grantInPass k e q).arb.requests.get j).isSome =
      if j = k then false else (s.arb.requests.get j).isSome := by
    intro j
    unfold grantInPass; rw [grant_requests, PerBay.get_set]
    split
    · rfl
    · have := raisePassed_none t.arb q j
      rw [ht] at this
      rw [mapArb_arb, Bool.eq_iff_iff, Option.isSome_iff_ne_none, Option.isSome_iff_ne_none, ne_eq, ne_eq, this]
  have hk : (s.arb.requests.get k).isSome = true := by rw [h]; rfl
  unfold entries
  simp only [List.countP_cons, List.countP_nil, hg]
  match k, hk with
  | 0, hk | 1, hk | 2, hk | 3, hk => simp [hk] <;> omega

/-- With more passes than entries, more passes change nothing. -/
theorem walk_fuel (n m : Nat) (hn : s.entries < n) (hm : s.entries < m) : walk n s = walk m s := by
  induction n generalizing m s with
  | zero => omega
  | succ n ih =>
    obtain ⟨m, rfl⟩ : ∃ m', m = m' + 1 := ⟨m - 1, by omega⟩
    have hp := s.pass_spec s.arb.ring []
    unfold walk
    cases hr : s.pass s.arb.ring [] with
    | grants k e q =>
      rw [hr] at hp
      have := entries_grantInPass (t := s) q hp.2.1 rfl
      exact ih _ _ (by omega) (by omega)
    | ends => rfl
    | stalls k e q =>
      rw [hr] at hp
      have := entries_grantInPass (t := shedReheat (fun t => !t.fits e) s.arb.ring.reverse s) q hp.2.1 (by simp)
      dsimp only; rw [ih _ m (by omega) (by omega)]

/-- An evaluation that nothing owes is its passes alone. -/
theorem evaluate_eq_walk (h : s.arb.evalOwed = false) : s.evaluate = walk 5 s := by
  have : s.mapArb Arbiter.evaluating = s := by
    have : Arbiter.evaluating s.arb = s.arb := by unfold Arbiter.evaluating; rw [← h]
    simp only [mapArb, this]
  unfold evaluate; rw [this]

theorem evaluate_ends (h : s.arb.evalOwed = false) (hp : s.pass s.arb.ring [] = .ends) :
    s.evaluate = upgradeReheat s.arb.ring s := by
  rw [evaluate_eq_walk s h]; unfold walk; rw [hp]

theorem evaluate_grants (h : s.arb.evalOwed = false) {k : Bay} {e : Entry} {q : List Bay}
    (hp : s.pass s.arb.ring [] = .grants k e q) : s.evaluate = (s.grantInPass k e q).evaluate := by
  have hs := s.pass_spec s.arb.ring []; rw [hp] at hs
  have hn := entries_grantInPass (t := s) q hs.2.1 rfl
  have hl := s.entries_le
  rw [evaluate_eq_walk s h, evaluate_eq_walk _ ((grantInPass_owed s k e q).trans h)]
  rw [show walk 5 s = walk 4 (s.grantInPass k e q) by rw [walk]; rw [hp]]
  exact walk_fuel _ _ _ (by omega) (by omega)

theorem evaluate_stalls (h : s.arb.evalOwed = false) {k : Bay} {e : Entry} {q : List Bay}
    (hp : s.pass s.arb.ring [] = .stalls k e q) : s.evaluate = if s.fitsUnheated e then
      ((shedReheat (fun t => !t.fits e) s.arb.ring.reverse s).grantInPass k e q).evaluate else s := by
  have hs := s.pass_spec s.arb.ring []; rw [hp] at hs
  have hl := s.entries_le
  have hn := entries_grantInPass (t := shedReheat (fun t => !t.fits e) s.arb.ring.reverse s) q hs.2.1 (by simp)
  rw [evaluate_eq_walk s h, walk]; rw [hp]; dsimp only
  split
  · rw [evaluate_eq_walk _ (by rw [grantInPass_owed, shedReheat_owed, h])]
    exact walk_fuel _ _ _ (by omega) (by omega)
  · rfl

/-! ## Reheat, one holder after another (R81, R87, R88) -/

theorem setReheat_slotA (k : Bay) (r : Reheat) : (s.setReheat k r).arb.slotA = Arbiter.slotWith k r s.arb.slotA := by
  simp [setReheat, refreshDraw, Arbiter.setReheat]

theorem setReheat_slotB (k : Bay) (r : Reheat) : (s.setReheat k r).arb.slotB = Arbiter.slotWith k r s.arb.slotB := by
  simp [setReheat, refreshDraw, Arbiter.setReheat]

theorem slotWith_other {k j : Bay} (h : j ≠ k) (r : Reheat) (d : Option DrySlot) (hj : Arbiter.slotHeldBy j d = true) :
    Arbiter.slotWith k r d = d := by
  cases d with
  | none => rfl
  | some d =>
    simp only [Arbiter.slotHeldBy, decide_eq_true_eq] at hj
    simp [Arbiter.slotWith, Arbiter.slotHeldBy, hj, h]

/-- A reheat status is its own bay's. -/
theorem setReheat_reheatOf_other {k j : Bay} (h : j ≠ k) (r : Reheat) :
    (s.setReheat k r).arb.reheatOf j = s.arb.reheatOf j := by
  unfold Arbiter.reheatOf
  rw [setReheat_slotA, setReheat_slotB, slotHeldBy_of_bay (slotWith_bay k r s.arb.slotA),
    slotHeldBy_of_bay (slotWith_bay k r s.arb.slotB)]
  split
  · rename_i ha; rw [slotWith_other h r _ ha]
  · split
    · rename_i hb; rw [slotWith_other h r _ hb]
    · rfl

/-- A bay with a DRY slot has the reheat status last set for it. -/
theorem setReheat_reheatOf_self (k : Bay) (r : Reheat) :
    (s.setReheat k r).arb.reheatOf k = (s.arb.reheatOf k).map fun _ => r := by
  have held : ∀ d, Arbiter.slotHeldBy k d = true →
      (Arbiter.slotWith k r d).map (·.reheat) = (d.map (·.reheat)).map fun _ => r := by
    intro d hd; unfold Arbiter.slotWith; rw [if_pos hd]
    cases d with
    | none => exact absurd hd (by simp [Arbiter.slotHeldBy])
    | some d => rfl
  unfold Arbiter.reheatOf
  rw [setReheat_slotA, setReheat_slotB, slotHeldBy_of_bay (slotWith_bay k r s.arb.slotA),
    slotHeldBy_of_bay (slotWith_bay k r s.arb.slotB)]
  split
  · rename_i ha; exact held _ ha
  · split
    · rename_i hb; exact held _ hb
    · rfl

/-- The upgrade turns so many of the PENDING holders ON, from the front, and stops where the next would not fit (R87). -/
theorem upgradeReheat_take (l : List Bay) (h : l.Nodup) :
    let pending := l.filter fun k => s.arb.reheatOf k = some .pending
    ∃ n ≤ pending.length, upgradeReheat l s = (pending.take n).foldl (fun t k => t.setReheat k .on) s ∧
      (∀ m < n, ((pending.take m).foldl (fun t k => t.setReheat k .on) s).reheatFits = true) ∧
      (n < pending.length → (upgradeReheat l s).reheatFits = false) := by
  induction l generalizing s with
  | nil => exact ⟨0, by simp, rfl, by simp, by simp⟩
  | cons k l ih =>
    obtain ⟨hk, hl⟩ := List.nodup_cons.mp h
    dsimp only
    by_cases hp : s.arb.reheatOf k = some .pending
    · have hf : ∀ r, (l.filter fun j => (s.setReheat k r).arb.reheatOf j = some .pending) =
          l.filter fun j => s.arb.reheatOf j = some .pending := by
        intro r; apply List.filter_congr; intro j hj
        rw [setReheat_reheatOf_other s (by rintro rfl; exact hk hj)]
      rw [List.filter_cons, if_pos (by simpa using hp)]
      by_cases hr : s.reheatFits = true
      · obtain ⟨n, h1, h2, h3, h4⟩ := ih (s.setReheat k .on) hl
        rw [hf] at h1 h2 h3 h4
        refine ⟨n + 1, by simpa using h1, ?_, ?_, ?_⟩
        · rw [upgradeReheat, if_pos ⟨hp, hr⟩, h2]; rfl
        · intro m hm; cases m with
          | zero => exact hr
          | succ m => exact h3 m (by omega)
        · intro hn; rw [upgradeReheat, if_pos ⟨hp, hr⟩]; exact h4 (by simpa using hn)
      · have hstop : ∀ l : List Bay, upgradeReheat l s = s := by
          intro l; induction l with
          | nil => rfl
          | cons j l ih => rw [upgradeReheat, if_neg (fun h => hr h.2), ih]
        refine ⟨0, by simp, by rw [hstop]; rfl, by simp, fun _ => by rw [hstop]; simpa using hr⟩
    · rw [List.filter_cons, if_neg (by simpa using hp)]
      rw [upgradeReheat, if_neg (fun h => hp h.1)]
      exact ih s hl

/-- The shed turns so many of the ON holders PENDING, from the front, and stops where no more is asked (R81, R88). -/
theorem shedReheat_take (more : State → Bool) (l : List Bay) (h : l.Nodup) :
    let lit := l.filter fun k => s.arb.reheatOf k = some .on
    ∃ n ≤ lit.length, shedReheat more l s = (lit.take n).foldl (fun t k => t.setReheat k .pending) s ∧
      (∀ m < n, more ((lit.take m).foldl (fun t k => t.setReheat k .pending) s) = true) ∧
      (n < lit.length → more (shedReheat more l s) = false) := by
  induction l generalizing s with
  | nil => exact ⟨0, by simp, rfl, by simp, by simp⟩
  | cons k l ih =>
    obtain ⟨hk, hl⟩ := List.nodup_cons.mp h
    dsimp only
    by_cases hp : s.arb.reheatOf k = some .on
    · have hf : ∀ r, (l.filter fun j => (s.setReheat k r).arb.reheatOf j = some .on) =
          l.filter fun j => s.arb.reheatOf j = some .on := by
        intro r; apply List.filter_congr; intro j hj
        rw [setReheat_reheatOf_other s (by rintro rfl; exact hk hj)]
      rw [List.filter_cons, if_pos (by simpa using hp)]
      by_cases hr : more s = true
      · obtain ⟨n, h1, h2, h3, h4⟩ := ih (s.setReheat k .pending) hl
        rw [hf] at h1 h2 h3 h4
        have hc : (more s && decide (s.arb.reheatOf k = some .on)) = true := by simp [hr, hp]
        refine ⟨n + 1, by simpa using h1, ?_, ?_, ?_⟩
        · rw [shedReheat, if_pos hc, h2]; rfl
        · intro m hm; cases m with
          | zero => exact hr
          | succ m => exact h3 m (by omega)
        · intro hn; rw [shedReheat, if_pos hc]; exact h4 (by simpa using hn)
      · have hstop : ∀ l : List Bay, shedReheat more l s = s := by
          intro l; induction l with
          | nil => rfl
          | cons j l ih => rw [shedReheat, if_neg (by simp [hr]), ih]
        refine ⟨0, by simp, by rw [hstop]; rfl, by simp, fun _ => by rw [hstop]; simpa using hr⟩
    · rw [List.filter_cons, if_neg (by simpa using hp)]
      rw [shedReheat, if_neg (by simp [hp])]
      exact ih s hl

end Sys2Proof.Machine.State
end

