-- ==== Sys2Proof/Laws/Served.lean ====
section
/-!
SUPPORT. What a grant, a revocation and a change of reheat status do, each in one lemma (R28, R66 to R68, R73, R80 to
R86, R121).
-/

namespace Sys2Proof.Machine.State

variable (s : State)

/-! ## The compressor leaves the bays' air handling alone -/

theorem onGrant_air (d : DryingCircuit) (st : Settings) : (d.onGrant st).air = d.air := by
  unfold DryingCircuit.onGrant DryingCircuit.startRunning; split <;> (try split) <;> rfl

theorem onGrant_withAir (d : DryingCircuit) (st : Settings) :
    ({ (d.onGrant st) with air := d.air } : DryingCircuit) = d.onGrant st := by
  have h := onGrant_air d st
  generalize d.onGrant st = e at h ⊢
  rw [← h]

theorem openDamper_reheaterOff {a : AirBay} (h : a.reheater = false) :
    ({ a.openDamper with reheater := false } : AirBay) = a.openDamper := by
  have ho : a.openDamper.reheater = false := by unfold AirBay.openDamper; split <;> exact h
  generalize a.openDamper = b at ho ⊢
  rw [← ho]

theorem openDamper_notYetOpen {a : AirBay} (h : a.damper ≠ .opened) : a.openDamper.damper ≠ .opened := by
  unfold AirBay.openDamper; split <;> first | exact h | (intro hc; cases hc)

theorem forcedStop_air (d : DryingCircuit) (st : Settings) : (d.forcedStop st).air = d.air := by
  unfold DryingCircuit.forcedStop DryingCircuit.stop DryingCircuit.leaveStartWait; split <;> rfl

theorem onRevoke_air (d : DryingCircuit) (st : Settings) (n : Nat) : (d.onRevoke st n).air = d.air := by
  unfold DryingCircuit.onRevoke; split
  · exact forcedStop_air d st
  · exact onRelease_keeps_air d st n

theorem onRevoke_withAir (d : DryingCircuit) (st : Settings) (n : Nat) (a : PerBay AirBay) :
    { (({ d with air := a } : DryingCircuit).onRevoke st n) with air := d.air } = d.onRevoke st n := by
  unfold DryingCircuit.onRevoke; split
  · obtain ⟨comp, minOff, minRun, speed, air⟩ := d
    cases comp <;> rfl
  · exact onRelease_air d st n a

/-! ## A reheat status (R29, R73, R121) -/

/-- The table, the draw and the bay's own reheater, and nothing else. -/
theorem setReheat_spec (k : Bay) (r : Reheat) :
    s.setReheat k r = { s with arb := (s.setReheat k r).arb, dry := (s.setReheat k r).dry } ∧
    (s.setReheat k r).arb = { s.arb with
      slotA := if s.arb.slotA.map (·.bay) = some k then some { bay := k, reheat := r } else s.arb.slotA
      slotB := if s.arb.slotB.map (·.bay) = some k then some { bay := k, reheat := r } else s.arb.slotB
      committed := (s.setReheat k r).arb.draw s.dry.comp } ∧
    { (s.setReheat k r).dry with air := s.dry.air } = s.dry ∧
    (∀ j, j ≠ k → (s.setReheat k r).air j = s.air j) ∧
    (s.setReheat k r).air k = { s.air k with
      reheater :=
        if (s.setReheat k r).arb.reheatOf k = some .on ∧ (s.air k).damper = .opened then
          if s.arb.reheatOf k = some .on then (s.air k).reheater
          else !(s.chan (bayChannel k 0)).faulted && decide ((s.chan (bayChannel k 0)).value < s.reheatTarget k - 5)
        else false } := by
  have hslot : ∀ d : Option DrySlot, Arbiter.slotWith k r d =
      if d.map (·.bay) = some k then some { bay := k, reheat := r } else d := by
    intro d; cases d <;> simp [Arbiter.slotWith, Arbiter.slotHeldBy]
  -- the state before the reheater follows
  generalize hx : s.mapArb (Arbiter.setReheat k r) = x
  have hready : x.reheatReady k = (decide ((s.setReheat k r).arb.reheatOf k = some .on) && decide ((s.air k).damper = .opened)) := by
    have : (s.setReheat k r).arb.reheatOf k = x.arb.reheatOf k := by
      simp only [setReheat, refreshDraw, mapArb_arb, reheaterFollow_arb, hx]; rfl
    rw [this, ← hx]; rfl
  have hset : s.setReheat k r = (x.reheaterFollow k (s.reheatReady k)).refreshDraw := by rw [← hx]; rfl
  have hfollow : ∃ y, x.reheaterFollow k (s.reheatReady k) = x.mapAir k fun a => { a with reheater := y } := by
    unfold reheaterFollow; split
    · split
      · refine ⟨(x.air k).reheater, ?_⟩
        have : x.dry.air = x.dry.air.modify k fun a => { a with reheater := (x.air k).reheater } := by
          apply PerBay.ext_get; intro j; rw [PerBay.get_modify]; split
          · rename_i e; subst e; rfl
          · rfl
        simp only [mapAir, mapDry, ← this]
      · exact ⟨_, rfl⟩
    · exact ⟨_, rfl⟩
  obtain ⟨y, hy⟩ := hfollow
  refine ⟨?_, ?_, ?_, ?_, ?_⟩
  · rw [hset, hy, ← hx]; rfl
  · rw [hset, hy, ← hx]; simp only [refreshDraw, mapArb_arb, mapAir_arb, Arbiter.setReheat, hslot]; rfl
  · rw [hset, hy, ← hx]; rfl
  · intro j hj; rw [hset, hy, ← hx]; simp [refreshDraw, hj]
  · have hair : ∀ z : State, z.refreshDraw.air k = z.air k := fun _ => rfl
    have hair' : (s.setReheat k r).air k = (x.reheaterFollow k (s.reheatReady k)).air k := by rw [hset]; exact hair _
    rw [hair']
    unfold reheaterFollow
    rw [hready]
    have hxa : x.air k = s.air k := by rw [← hx]; rfl
    have hch : x.chan (bayChannel k 0) = s.chan (bayChannel k 0) := by rw [← hx]; rfl
    have htg : x.reheatTarget k = s.reheatTarget k := by rw [← hx]; rfl
    by_cases hon : (s.setReheat k r).arb.reheatOf k = some .on ∧ (s.air k).damper = .opened
    · rw [if_pos (by simp [hon]), if_pos hon]
      unfold reheatReady; rw [hon.2]
      by_cases hw : s.arb.reheatOf k = some .on
      · rw [if_pos (by simp [hw]), if_pos hw, hxa]
      · rw [if_neg (by simp [hw]), if_neg hw, mapAir_air, if_pos rfl, hxa]; dsimp only
        rw [hch, htg]; rfl
    · rw [if_neg (by simpa using hon), if_neg hon, mapAir_air, if_pos rfl, hxa]

/-! ## A grant within a pass (R51, R55, R64, R66, R86, R92, R112, R119) -/

theorem raisePassed_get (a : Arbiter) (l : List Bay) (h : l.Nodup) (j : Bay) :
    (Arbiter.raisePassed l a).requests.get j = if j ∈ l then (a.requests.get j).map Entry.raise else a.requests.get j := by
  unfold Arbiter.raisePassed
  induction l generalizing a with
  | nil => rfl
  | cons i l ih =>
    obtain ⟨hi, hl⟩ := List.nodup_cons.mp h
    rw [List.foldl_cons, ih _ hl]
    simp only [PerBay.get_modify, List.mem_cons]
    by_cases hj : j = i
    · subst hj; simp [hi]
    · simp [hj]

theorem rotate_ring (k : Bay) (a : Arbiter) : (a.rotate k).ring = match a.mode with
    | .rotating => a.ring.filter (· ≠ k) ++ [k]
    | .fixed => a.ring := by
  cases h : a.mode <;> simp [Arbiter.rotate, h]

theorem grantInPass_spec (k : Bay) (e : Entry) (passed : List Bay) (hn : passed.Nodup) (hd : s.arb.holdsDry k = false)
    (hfree : e.resource = .dry → s.arb.slotA = none ∨ s.arb.slotB = none) :
    s.GrantsInPass (s.grantInPass k e passed) k e passed := by
  obtain ⟨⟨req, hreq⟩, -⟩ := raisePassed_requests s.arb passed
  have hget := raisePassed_get s.arb passed hn
  generalize hx : s.mapArb (Arbiter.raisePassed passed) = x
  have hxa : x.arb = { s.arb with requests := req } := by rw [← hx]; exact hreq
  have hgp : s.grantInPass k e passed = x.grant k e := by rw [← hx]; rfl
  have hbays : x.bays = s.bays := by rw [← hx]; rfl
  have hxair : ∀ j, x.air j = s.air j := by intro j; rw [← hx]; rfl
  have hxport : ∀ q, x.port q = s.port q := by intro q; rw [← hx]; simp
  have hxst : x.stable = s.stable := by rw [← hx]; exact mapArb_stable s (by simp)
  have hxdry : x.dry = s.dry := by rw [← hx]; rfl
  have hxsteam : x.steam = s.steam := by rw [← hx]; rfl
  have hrequests : ∀ j, (x.grant k e).arb.requests.get j = if j = k then none
      else if j ∈ passed then (s.arb.requests.get j).map Entry.raise else s.arb.requests.get j := by
    intro j; rw [grant_requests, PerBay.get_set]; split
    · rfl
    · rw [← hget j, ← hx]; rfl
  have hbay : ∀ j, (x.grant k e).bay j = if j = k then { (s.bay k) with
      state := .active, waitElapsed := 0, overheatRun := 0, limitReached := false, waitReached := false } else s.bay j := by
    intro j; rw [grant_bay]; simp only [bay, hbays]; rfl
  have howed : (x.grant k e).arb.evalOwed = s.arb.evalOwed := by rw [grant_owed, hxa]
  have hstable : (x.grant k e).stable = s.stable := by rw [grant_stable, hxst]
  rw [hgp]
  cases hr : e.resource with
  | steam =>
    have hg : x.grant k e = x.grantSteam k := by unfold grant; rw [hr]
    have harb : (x.grantSteam k).arb = { ({ x.arb.dropEntry k with steamRow := some k } : Arbiter).rotate k with
        committed := (x.grantSteam k).arb.committed } := by
      simp only [grantSteam, grantBay_arb, refreshDraw, mapArb_arb, mapSteam_arb]
    have hring := rotate_ring k ({ x.arb.dropEntry k with steamRow := some k } : Arbiter)
    obtain ⟨r, hrot⟩ := rotate_fields k ({ x.arb.dropEntry k with steamRow := some k } : Arbiter)
    refine ⟨hstable, howed, hrequests, ?_, hbay, ?_, ?_, ?_, fun _ => ⟨?_, ?_, ?_, ?_, ?_, ?_⟩, fun h => by simp [hr] at h⟩
    · rw [hg, harb]; rw [hring, hxa]; rfl
    · intro j hj; rw [hg]; unfold grantSteam; rw [grantBay_air, if_neg hj, ← hxair]; rfl
    · intro q; rw [hg]; unfold grantSteam; rw [grantBay_notices, ← hxport]; simp [refreshDraw]
    · rw [hg]; simp [grantSteam, grantBay, handDemands, raiseBay, refreshDraw]; rfl
    · rw [hg, harb, hrot]
    · rw [hg, harb, hrot, hxa]; rfl
    · rw [hg, harb, hrot, hxa]; rfl
    · rw [hg, ← hxsteam]; unfold grantSteam; rw [grantBay_steam, ← hx]; rfl
    · rw [hg, ← hxdry]; exact grantBay_dry _ k
    · have hg' : x.grantSteam k = x.grant k e := hg.symm
      have h1 : (x.grantSteam k).air k = demanded ((x.grantSteam k).bay k) (s.air k) := by
        unfold grantSteam; rw [grantBay_air, if_pos rfl, ← hxair]; rfl
      rw [hg]; exact h1
  | dry =>
    have hg : x.grant k e = x.grantDry k e.boost := by unfold grant; rw [hr]
    have hfree := hfree hr
    -- served, before the reheat decision
    obtain ⟨p, hp⟩ : ∃ p, p = ((x.arb.dropEntry k).placeDry k (if e.boost then Reheat.pending else .notAsked)).rotate k := ⟨_, rfl⟩
    obtain ⟨S, hS⟩ : ∃ S, S = x.serveDry k e.boost := ⟨_, rfl⟩
    have hpe : p = { s.arb with
        requests := p.requests
        slotA := if s.arb.slotA = none then some { bay := k, reheat := if e.boost then .pending else .notAsked }
          else s.arb.slotA
        slotB := if s.arb.slotA = none then s.arb.slotB
          else some { bay := k, reheat := if e.boost then .pending else .notAsked }
        ring := match s.arb.mode with
          | .rotating => s.arb.ring.filter (· ≠ k) ++ [k]
          | .fixed => s.arb.ring } := by
      rw [hp, hxa]; unfold Arbiter.rotate Arbiter.placeDry Arbiter.dropEntry
      cases ha : s.arb.slotA <;> cases hm : s.arb.mode <;> simp [hm]
    have hSarb : S.arb = { p with committed := p.draw S.dry.comp } := by rw [hS, hp]; rfl
    have hst : p.settings = s.arb.settings := by rw [hpe]
    have hSdry : S.dry = { (s.dry.onGrant s.arb.settings) with air := s.dry.air.modify k AirBay.openDamper } := by
      have : S.dry = { (x.dry.onGrant p.settings) with air := (x.dry.onGrant p.settings).air.modify k AirBay.openDamper } := by
        rw [hS, hp]; rfl
      rw [this, onGrant_air, hxdry, hst]
    have hSair : ∀ j, S.air j = if j = k then (s.air k).openDamper else s.air j := by
      intro j; unfold air; rw [hSdry]; simp only [PerBay.get_modify]; split
      · rename_i h; rw [h]
      · rfl
    have hSsteam : S.steam = s.steam := by rw [hS, ← hxsteam]; rfl
    have hSport : ∀ q, S.port q = s.port q := by intro q; rw [← hxport q, hS]; cases q <;> rfl
    have hSdraw : S.arb.committed = s.arb.draw s.dry.comp + s.addedDraw e := by
      have hc : S.arb.committed = p.draw S.dry.comp := by rw [hSarb]
      rw [hc, hpe]
      unfold addedDraw Arbiter.draw Arbiter.compressorCounted; rw [hr]; dsimp only
      by_cases hcomp : s.dry.comp = .running ∨ s.dry.comp = .tail <;>
        cases ha : s.arb.slotA <;> cases hb : s.arb.slotB <;> cases hbo : e.boost <;>
        simp [Arbiter.slotOn, ha, hb, hcomp] at hfree ⊢
    have hSfits : S.reheatFits = true ↔
        s.arb.draw s.dry.comp + s.addedDraw e + s.arb.settings.reheaterDraw ≤ s.arb.budget := by
      unfold reheatFits; rw [hSdraw, hSarb, hpe]; simp
    -- the reheat decision
    obtain ⟨T, hT⟩ : ∃ T, T = S.decideReheat k e.boost := ⟨_, rfl⟩
    have hgT : x.grantDry k e.boost = T.grantBay k := by rw [hT, hS]; rfl
    have hTall : (∃ reheat : Reheat, reheat = (if e.boost = false then .notAsked
          else if s.arb.draw s.dry.comp + s.addedDraw e + s.arb.settings.reheaterDraw ≤ s.arb.budget then .on
          else .pending) ∧
        T.arb.slotA = (if s.arb.slotA = none then some { bay := k, reheat := reheat } else s.arb.slotA) ∧
        T.arb.slotB = (if s.arb.slotA = none then s.arb.slotB else some { bay := k, reheat := reheat })) ∧
        T.arb.steamRow = s.arb.steamRow ∧ T.arb.ring = p.ring ∧ T.steam = s.steam ∧
        { T.dry with air := S.dry.air } = S.dry ∧ T.arb.committed = T.arb.draw T.dry.comp ∧
        (∀ j, j ≠ k → T.air j = s.air j) ∧
        ((s.air k).damper ≠ .opened → (s.air k).reheater = false → T.air k = (s.air k).openDamper) ∧
        (∀ q, T.port q = s.port q) ∧ ∀ j, T.bay j = s.bay j := by
      have hTbay : ∀ j, T.bay j = s.bay j := by intro j; rw [hT, hS]; simp [bay, hbays]
      by_cases hc : (e.boost && S.reheatFits) = true
      · have hb : e.boost = true := by simp at hc; exact hc.1
        have hf := hSfits.mp (by simp at hc; exact hc.2)
        have hTe : T = S.setReheat k .on := by rw [hT]; unfold decideReheat; rw [if_pos hc]
        obtain ⟨h1, h2, h3, h4, h5⟩ := setReheat_spec S k .on
        rw [← hTe] at h1 h2 h3 h4 h5
        have hdc : T.dry.comp = S.dry.comp := by rw [← h3]
        have hnA : s.arb.slotA.map (·.bay) ≠ some k := by
          intro h; cases ha : s.arb.slotA with
          | none => rw [ha] at h; cases h
          | some d => rw [ha] at h; simp at h; simp [Arbiter.holdsDry, Arbiter.slotHeldBy, ha, h] at hd
        have hnB : s.arb.slotB.map (·.bay) ≠ some k := by
          intro h; cases ha : s.arb.slotB with
          | none => rw [ha] at h; cases h
          | some d => rw [ha] at h; simp at h; simp [Arbiter.holdsDry, Arbiter.slotHeldBy, ha, h] at hd
        refine ⟨⟨.on, by rw [hb]; simp [hf], ?_, ?_⟩, ?_, ?_, ?_, h3, ?_, ?_, ?_, ?_, hTbay⟩
        · rw [h2, hSarb, hpe]; dsimp only; by_cases ha : s.arb.slotA = none
          · simp [ha]
          · simp only [ha, if_false, if_neg hnA]
        · rw [h2, hSarb, hpe]; dsimp only; by_cases ha : s.arb.slotA = none
          · simp only [ha, if_true, if_neg hnB]
          · simp [ha]
        · rw [h2, hSarb, hpe]
        · rw [h2, hSarb]
        · rw [h1]; exact hSsteam
        · rw [hdc]; conv_lhs => rw [h2]
        · intro j hj; rw [h4 j hj, hSair, if_neg hj]
        · intro hdam hre
          rw [h5, hSair, if_pos rfl]
          have hnot : ((s.air k).openDamper).damper ≠ .opened := by
            exact openDamper_notYetOpen hdam
          rw [if_neg (fun h => hnot h.2)]
          exact openDamper_reheaterOff hre
        · intro q; rw [← hSport q, h1]; cases q <;> rfl
      · have hTe : T = S := by rw [hT]; unfold decideReheat; rw [if_neg hc]
        have hstat : (if e.boost then Reheat.pending else .notAsked) = (if e.boost = false then .notAsked
          else if s.arb.draw s.dry.comp + s.addedDraw e + s.arb.settings.reheaterDraw ≤ s.arb.budget then .on
          else .pending) := by
          cases hb : e.boost with
          | false => rfl
          | true =>
            have : ¬ S.reheatFits = true := by intro h; exact hc (by rw [hb, h]; rfl)
            rw [if_pos rfl, if_neg (by simp), if_neg (fun h => this (hSfits.mpr h))]
        rw [hTe]
        refine ⟨⟨_, hstat, ?_, ?_⟩, ?_, ?_, hSsteam, rfl, ?_, ?_, ?_, hSport, by rw [← hTe]; exact hTbay⟩
        · rw [hSarb, hpe]
        · rw [hSarb, hpe]
        · rw [hSarb, hpe]
        · rw [hSarb]
        · rw [hSarb]; rfl
        · intro j hj; rw [hSair, if_neg hj]
        · intro _ _; rw [hSair, if_pos rfl]
    obtain ⟨⟨status, hstat, hA, hB⟩, hrow, hring, hsteam, hdry, hdraw, hothers, hair, hport, hTbay⟩ := hTall
    have hbk := hbay k
    rw [hg, hgT] at hstable howed hrequests hbay hbk ⊢
    refine ⟨hstable, howed, hrequests, ?_, hbay, ?_, ?_, ?_, fun h => by simp [hr] at h,
      fun _ => ⟨?_, ?_, ?_, ?_, ?_⟩⟩
    · rw [grantBay_arb, hring]; exact congrArg Arbiter.ring hpe
    · intro j hj; rw [grantBay_air, if_neg hj, hothers j hj]
    · intro q; rw [grantBay_notices, hport]
    · rw [grantBay_arb, hdraw]; simp [grantBay, handDemands, raiseBay]
    · rw [grantBay_arb, hrow]
    · rw [grantBay_steam, hsteam]
    · have h1 := grantBay_dry T k
      have h2 : { (T.grantBay k).dry with air := s.dry.air } =
          { ({ ({ (T.grantBay k).dry with air := T.dry.air } : DryingCircuit) with air := S.dry.air } : DryingCircuit) with
            air := s.dry.air } := rfl
      rw [h2, h1, hdry, hSdry]
      exact onGrant_withAir s.dry s.arb.settings
    · intro st hst'
      have : st = status := by rw [hst', hstat]
      rw [this, grantBay_arb, hA, hB]
      exact ⟨fun h => by simp [h], fun h => by simp [h]⟩
    · intro hdam hre; rw [grantBay_air, if_pos rfl, hair hdam hre]

/-! ## A revocation (R28, R68, R82, R116) -/

/-- A revocation at the bay, spelled out: AWAIT with wait elapsed 0, the demands handed on, the request posted, GRANT raised, an
evaluation owed. -/
theorem revokeBay_eq {k : Bay} {r : StepRecord} {q : Resource} (hr : (s.bay k).currentStep = some r)
    (hk : r.kind.resource = some q) :
    s.revokeBay k = (((s.mapBay k fun b => { (b.goto .await) with waitElapsed := 0 }).handDemands k).mapArb
      (Arbiter.post k q (decide (q = .dry) && r.boost))).raiseBay .grant k := by
  have hcur : (((s.mapBay k fun b => { (b.goto .await) with waitElapsed := 0 }).handDemands k).bay k).currentStep = some r := by
    simp only [bay, handDemands_bays, mapBay_bays, PerBay.get_modify, if_pos]; exact hr
  unfold revokeBay postRequest; rw [hcur]; dsimp only; rw [hk]
  cases q <;> rfl

theorem revokeSteam_spec {k : Bay} {r : StepRecord} (hr : (s.bay k).currentStep = some r) (hk : r.kind = .steam)
    (hs : s.arb.holdsSteam k = true) :
    s.LetsGo (s.revokeSteam k) k (some (Entry.fresh .steam false)) (NoticeSet.addBay .grant k) ∧
    (s.revokeSteam k).arb.evalOwed = true ∧
    (s.revokeSteam k).bay k = { s.bay k with
      state := .await, waitElapsed := 0, overheatRun := 0, limitReached := false, waitReached := false } := by
  have he : s.release k = (s.endSteam k).mapArb Arbiter.owe := by unfold release; rw [if_pos hs]
  have hrel := release_spec s k; rw [he] at hrel
  have hrev : s.revokeSteam k = _ := revokeBay_eq (s.endSteam k) (k := k) (r := r) (q := .steam) hr (by rw [hk]; rfl)
  refine ⟨?_, ?_, ?_⟩
  · rw [hrev]
    apply LetsGo.raise
    refine hrel.letsGo _ _ id ?_ ?_ ⟨_, _, rfl⟩ ?_ ?_ ?_ ?_ ?_ ?_
    · rw [mapArb_stable _ (by simp), handDemands_stable, mapBay_stable, mapArb_owe_stable]
    · intro j hj; simp [bay, hj]
    · simp [Arbiter.post, Arbiter.owe, Entry.fresh]
    · intro j hj; simp [Arbiter.post, Arbiter.owe, hj]
    · simp [handDemands]
    · simp [handDemands]
    · intro j; simp only [handDemands, mapAir_air, mapArb_air]; split
      · rename_i e; subst e; rfl
      · rfl
    · intro p; simp [handDemands]
  · rw [hrev]; simp [Arbiter.post, Arbiter.owe]
  · rw [hrev]; simp [bay, BayContext.goto]

theorem revokeDry_spec {k : Bay} {r : StepRecord} (hr : (s.bay k).currentStep = some r) (hk : r.kind = .dry) :
    s.RevokesDry (s.revokeDry k) k (Entry.fresh .dry r.boost) ∧ (s.revokeDry k).arb.evalOwed = true := by
  have hrev : s.revokeDry k = _ := revokeBay_eq (s.cutDry k) (k := k) (r := r) (q := .dry) hr (by rw [hk]; rfl)
  have hcut : (s.cutDry k).dry = (s.clearDrySlot k).dry.onRevoke s.arb.settings (s.clearDrySlot k).arb.dryHolders := rfl
  have hair : ∀ j, (s.cutDry k).air j = if j = k then { (s.air k).closeDamper with reheater := false } else s.air j := by
    intro j; unfold air; rw [hcut, onRevoke_air]; unfold clearDrySlot mapAir mapArb mapDry; simp only [PerBay.get_modify]; split
    · rename_i e; rw [e]
    · rfl
  have hbay : (s.revokeDry k).bay k = { s.bay k with
      state := .await, waitElapsed := 0, overheatRun := 0, limitReached := false, waitReached := false } := by
    have : (s.cutDry k).bays = s.bays := rfl
    rw [hrev]; simp [bay, BayContext.goto, this]
  have harb : (s.revokeDry k).arb = Arbiter.post k .dry r.boost (s.cutDry k).arb := by rw [hrev]; simp
  have hdry : { (s.revokeDry k).dry with air := (s.cutDry k).dry.air } = (s.cutDry k).dry := by
    rw [hrev]; simp [raiseBay, handDemands, mapAir, mapDry]
  refine ⟨⟨by simp, ?_, ?_, ?_, ?_, ?_, ?_, ?_, hbay, ?_, ?_, ?_⟩, by rw [harb]; rfl⟩
  · intro j hj
    refine ⟨?_, ?_, ?_⟩
    · rw [hrev]; simp [bay, hj]; rfl
    · have : (s.revokeDry k).air j = (s.cutDry k).air j := by rw [hrev]; simp [raiseBay, handDemands, hj]
      rw [this, hair, if_neg hj]
    · rw [harb]; simp [Arbiter.post, Arbiter.owe, hj]; rfl
  · rw [harb]; simp [Arbiter.post, Arbiter.owe, Entry.fresh]
  · rw [harb]; rfl
  · rw [harb]; rfl
  · rw [hrev]; simp [raiseBay, handDemands]; rfl
  · rw [harb]; exact ⟨rfl, rfl⟩
  · have h1 : (s.revokeDry k).arb.dryHolders = (s.clearDrySlot k).arb.dryHolders := by rw [harb]; rfl
    have h2 : ({ (s.revokeDry k).dry with air := s.dry.air } : DryingCircuit) =
        { ({ (s.revokeDry k).dry with air := (s.cutDry k).dry.air } : DryingCircuit) with air := s.dry.air } := rfl
    rw [h2, hdry, hcut, h1]
    exact onRevoke_withAir s.dry s.arb.settings _ _
  · have : (s.revokeDry k).air k = demanded ((s.revokeDry k).bay k) ((s.cutDry k).air k) := by
      rw [hrev]; simp [raiseBay, handDemands, bay]; rfl
    rw [this, hair, if_pos rfl]
  · intro q; rw [hrev, raiseBay_notices]; simp [handDemands]; rfl
  · rw [harb]
    have : (s.revokeDry k).dry.comp = (s.cutDry k).dry.comp := by rw [← hdry]
    rw [this]; rfl

/-! ## The shed of a budget fall (R80 to R84) -/

/-- What a revocation of a DRY grant leaves in the grant table, whatever step the bay is in. -/
theorem revokeDry_table (k : Bay) : ∃ req, (s.revokeDry k).arb = { (s.cutDry k).arb with requests := req, evalOwed := true } := by
  have : ∀ t : State, ∃ req o, (t.postRequest k).arb = { t.arb with requests := req, evalOwed := o } := by
    intro t; unfold postRequest; split <;> (try split) <;> exact ⟨_, _, rfl⟩
  obtain ⟨req, o, h⟩ := this (((s.cutDry k).mapBay k fun b => { (b.goto .await) with waitElapsed := 0 }).handDemands k)
  exact ⟨req, by simp only [revokeDry, revokeBay, raiseBay_arb, mapArb_arb, h]; rfl⟩

theorem revokeDry_slots (k : Bay) :
    (s.revokeDry k).arb.slotA = Arbiter.slotWithout k s.arb.slotA ∧ (s.revokeDry k).arb.slotB = Arbiter.slotWithout k s.arb.slotB := by
  obtain ⟨req, h⟩ := revokeDry_table s k
  rw [h]; exact ⟨rfl, rfl⟩

theorem slotWithout_other {j k : Bay} (h : j ≠ k) (d : Option DrySlot) :
    Arbiter.slotHeldBy j (Arbiter.slotWithout k d) = Arbiter.slotHeldBy j d := by
  unfold Arbiter.slotWithout; split
  · rename_i hk; cases d with
    | none => rfl
    | some d => simp only [Arbiter.slotHeldBy, decide_eq_true_eq] at hk; simp [Arbiter.slotHeldBy, hk, Ne.symm h]
  · rfl

theorem revokeDry_holdsDry_other {j k : Bay} (h : j ≠ k) : (s.revokeDry k).arb.holdsDry j = s.arb.holdsDry j := by
  obtain ⟨hA, hB⟩ := revokeDry_slots s k
  unfold Arbiter.holdsDry; rw [hA, hB, slotWithout_other h, slotWithout_other h]

/-- Stage 3 revokes so many of the DRY holders, from the front, and stops where the draw is within the budget (R83). -/
theorem shedDry_take (l : List Bay) (h : l.Nodup) :
    let holders := l.filter fun k => s.arb.holdsDry k
    ∃ n ≤ holders.length, shedDry l s = (holders.take n).foldl (fun t k => t.revokeDry k) s ∧
      (∀ m < n, ((holders.take m).foldl (fun t k => t.revokeDry k) s).overBudget = true) ∧
      (n < holders.length → (shedDry l s).overBudget = false) := by
  induction l generalizing s with
  | nil => exact ⟨0, by simp, rfl, by simp, by simp⟩
  | cons k l ih =>
    obtain ⟨hk, hl⟩ := List.nodup_cons.mp h
    dsimp only
    by_cases hp : s.arb.holdsDry k = true
    · have hf : (l.filter fun j => (s.revokeDry k).arb.holdsDry j) = l.filter fun j => s.arb.holdsDry j := by
        apply List.filter_congr; intro j hj
        rw [revokeDry_holdsDry_other s (by rintro rfl; exact hk hj)]
      rw [List.filter_cons, if_pos hp]
      by_cases hr : s.overBudget = true
      · obtain ⟨n, h1, h2, h3, h4⟩ := ih (s.revokeDry k) hl
        rw [hf] at h1 h2 h3 h4
        have hc : (s.overBudget && s.arb.holdsDry k) = true := by simp [hr, hp]
        refine ⟨n + 1, by simpa using h1, ?_, ?_, ?_⟩
        · rw [shedDry, if_pos hc, h2]; rfl
        · intro m hm; cases m with
          | zero => exact hr
          | succ m => exact h3 m (by omega)
        · intro hn; rw [shedDry, if_pos hc]; exact h4 (by simpa using hn)
      · have hstop : ∀ l : List Bay, shedDry l s = s := by
          intro l; induction l with
          | nil => rfl
          | cons j l ih => rw [shedDry, if_neg (by simp [hr]), ih]
        refine ⟨0, by simp, by rw [hstop]; rfl, by simp, fun _ => by rw [hstop]; simpa using hr⟩
    · rw [List.filter_cons, if_neg hp]
      rw [shedDry, if_neg (by simp [hp])]
      exact ih s hl

end Sys2Proof.Machine.State
end

