-- ==== Sys2Proof/Laws/Tables.lean ====
section
/-!
SUPPORT. The tables of the rules, each once, as a proof reads them: what a compressor, a reheater, a channel fault, a bay's
demands, a step's counting, a report, a reply, a notice, a record on the wire and the steam unit's scan do, case by case.
-/

namespace Sys2Proof.Machine

/-! ## Programs (R2) -/

theorem clampNat_clampNat (lo hi x : Nat) (h : lo ≤ hi) : clampNat lo hi (clampNat lo hi x) = clampNat lo hi x := by
  simp only [clampNat_eq h]; omega

theorem clampInt_clampInt (lo hi x : Int) (h : lo ≤ hi) : clampInt lo hi (clampInt lo hi x) = clampInt lo hi x := by
  simp only [clampInt_eq h]; omega

theorem StepRecord.normalize_normalize (limit : Nat) (h : 30 ≤ limit) (r : StepRecord) :
    (r.normalize limit).normalize limit = r.normalize limit := by
  have hf : normalFan r.kind (normalFan r.kind r.fanLevel) = normalFan r.kind r.fanLevel := by
    unfold normalFan; split
    · rfl
    · exact clampNat_clampNat 1 15 _ (by decide)
  have hg : keptFlags r.kind (keptFlags r.kind r.flags) = keptFlags r.kind r.flags := by
    unfold keptFlags; split
    · rw [BitVec.and_assoc, BitVec.and_self]
    · rfl
  have ht : normalTarget r.kind (normalTarget r.kind r.target) = normalTarget r.kind r.target := by
    unfold normalTarget
    cases r.kind
    · exact clampInt_clampInt 300 1000 _ (by decide)
    · rfl
    · exact clampInt_clampInt 0 8000 _ (by decide)
    · rfl
    · exact clampInt_clampInt 150 600 _ (by decide)
  have ha : normalAir r.kind limit (normalAir r.kind limit r.airTemp) = normalAir r.kind limit r.airTemp := by
    unfold normalAir; split
    · exact clampNat_clampNat 30 limit _ h
    · rfl
  unfold StepRecord.normalize; dsimp only
  rw [hf, hg, ht, ha, clampNat_clampNat 10 7200 _ (by decide)]

/-- Normalizing a normalized record gives the same record (R2). -/
theorem Program.normalize_normalize (p : Program) : p.normalize.normalize = p.normalize := by
  have h : 30 ≤ clampNat 30 75 p.fabricLimit := by rw [clampNat_eq (by decide)]; omega
  unfold Program.normalize; dsimp only
  rw [clampNat_clampNat 30 75 _ (by decide), List.map_map]
  congr 1
  apply List.map_congr_left
  intro r _
  exact StepRecord.normalize_normalize _ h r

/-! ## Compressor (R112 to R114, R116, R117) -/

section

variable (d : DryingCircuit) (st : Settings)

theorem onGrant_off (h : d.comp = .off) (hm : d.minOff = 0) :
    d.onGrant st = { d with comp := .running, speed := 60, minRun := some (st.minRun * 100) } := by
  unfold DryingCircuit.onGrant; rw [h]; exact if_pos hm

theorem onGrant_wait (h : d.comp = .off) (hm : d.minOff ≠ 0) :
    d.onGrant st = { d with comp := .startWait, minRun := none } := by
  unfold DryingCircuit.onGrant; rw [h]; exact if_neg hm

theorem onGrant_startWait (h : d.comp = .startWait) : d.onGrant st = d := by
  unfold DryingCircuit.onGrant; rw [h]

theorem onGrant_running (h : d.comp = .running) : d.onGrant st = { d with speed := 100 } := by
  unfold DryingCircuit.onGrant; rw [h]

theorem onGrant_tail (h : d.comp = .tail) : d.onGrant st = { d with comp := .running, speed := 60 } := by
  unfold DryingCircuit.onGrant; rw [h]

theorem onRelease_one (h : d.comp = .running) : d.onRelease st 1 = { d with speed := 60 } := by
  unfold DryingCircuit.onRelease; rw [h]; rfl

theorem onRelease_stop (h : d.comp = .running) (hm : d.minRun = none ∨ d.minRun = some 0) :
    d.onRelease st 0 = { d with comp := .off, speed := 0, minRun := none, minOff := st.minOff * 100 } := by
  unfold DryingCircuit.onRelease; rw [h]
  have : d.minRunElapsed = true := by unfold DryingCircuit.minRunElapsed; rcases hm with e | e <;> simp [e]
  simp only [this, if_true]
  rfl

theorem onRelease_tail (h : d.comp = .running) (n : Nat) (hm : d.minRun = some (n + 1)) :
    d.onRelease st 0 = { d with comp := .tail, speed := 60 } := by
  unfold DryingCircuit.onRelease; rw [h]
  have : d.minRunElapsed = false := by unfold DryingCircuit.minRunElapsed; rw [hm]; rfl
  simp [this]

theorem onRelease_startWait (h : d.comp = .startWait) :
    d.onRelease st 1 = d ∧ d.onRelease st 0 = { d with comp := .off, speed := 0, minRun := none } := by
  unfold DryingCircuit.onRelease; rw [h]; exact ⟨rfl, rfl⟩

theorem forcedStop_running (h : d.comp = .running ∨ d.comp = .tail) :
    d.forcedStop st = { d with comp := .off, speed := 0, minRun := none, minOff := st.minOff * 100 } := by
  unfold DryingCircuit.forcedStop; rcases h with e | e <;> rw [e] <;> rfl

theorem forcedStop_startWait (h : d.comp = .startWait) :
    d.forcedStop st = { d with comp := .off, speed := 0, minRun := none } := by
  unfold DryingCircuit.forcedStop; rw [h]; rfl

theorem forcedStop_off (h : d.comp = .off) : d.forcedStop st = d := by
  unfold DryingCircuit.forcedStop; rw [h]

end

/-! ## Reheater (R121, R122) -/

namespace State

variable (s : State) (k : Bay)

theorem reheatTarget_eq {r : StepRecord} (h : (s.bay k).currentStep = some r) : s.reheatTarget k = 10 * (r.airTemp : Int) := by
  unfold reheatTarget; rw [h]

theorem reheatReady_iff : s.reheatReady k = true ↔ s.arb.reheatOf k = some .on ∧ (s.air k).damper = .opened := by
  simp [reheatReady]

theorem scanReheat_off (h : s.reheatReady k = false) : s.scanReheat k = s := by
  unfold scanReheat; rw [h]; rfl

theorem scanReheat_on (h : s.reheatReady k = true) : s.scanReheat k = s.mapAir k fun a =>
    { a with
      reheater := reheatRegulate a.reheater (s.chan (bayChannel k 0)).faulted (s.chan (bayChannel k 0)).value (s.reheatTarget k) } := by
  unfold scanReheat; rw [h]; rfl

end State

/-! ## Channel faults (R135) -/

theorem isRail_iff (code : Code) : isRail code = true ↔ code.toNat ≤ 8 ∨ 4087 ≤ code.toNat := by
  simp only [isRail, Params.railLow, Params.railHigh, Bool.or_eq_true, decide_eq_true_eq]

theorem faultUpdate_agrees (faulted : Bool) (run : Nat) : faultUpdate faulted run faulted = (faulted, 0) := by
  simp [faultUpdate]

theorem faultUpdate_third (faulted : Bool) : faultUpdate faulted 2 (!faulted) = (!faulted, 0) := by
  cases faulted <;> rfl

theorem faultUpdate_counts (faulted : Bool) (run : Nat) (h : run < 2) :
    faultUpdate faulted run (!faulted) = (faulted, run + 1) := by
  have : ¬ 3 ≤ run + 1 := by omega
  cases faulted <;> simp [faultUpdate, Params.faultScans, this]

/-! ## Demands of a bay (R25) and the counting of a step (R30) -/

section

variable (b : BayContext)

theorem demands_rest (h : b.state ∈ [.idle, .loaded, .held, .finished]) : b.fanDemand = 0 ∧ b.ventDemand = false := by
  simp only [List.mem_cons, List.not_mem_nil, or_false] at h
  unfold BayContext.fanDemand BayContext.ventDemand
  rcases h with e | e | e | e <;> rw [e] <;> exact ⟨rfl, rfl⟩

theorem fanDemand_step {r : StepRecord} (h : b.state = .await ∨ b.state = .active) (hr : b.currentStep = some r) :
    b.fanDemand = if r.kind = .settle then 0 else r.fanLevel := by
  unfold BayContext.fanDemand; rcases h with e | e <;> rw [e, hr]

theorem ventDemand_await (h : b.state = .await) : b.ventDemand = false := by
  unfold BayContext.ventDemand; rw [h]

theorem ventDemand_active {r : StepRecord} (h : b.state = .active) (hr : b.currentStep = some r) :
    b.ventDemand = decide (r.kind = .refresh ∨ r.kind = .cool) := by
  unfold BayContext.ventDemand BayContext.currentKind; rw [h, hr]
  cases hk : r.kind <;> simp [hk]

theorem demands_halted (h : b.state = .halted) :
    b.fanDemand = (if b.purgeRemaining.isSome ∧ b.door = .shut then 15 else 0) ∧ b.ventDemand = b.purgeRemaining.isSome := by
  unfold BayContext.fanDemand BayContext.ventDemand; rw [h]
  refine ⟨?_, rfl⟩
  simp [Params.purgeFanLevel]

end

namespace State

variable (s : State) (k : Bay)

theorem counts_steam {r : StepRecord} (hr : (s.bay k).currentStep = some r) (hk : r.kind = .steam) : s.counts k = true ↔
    s.arb.steamRow = some k ∧ 1050 ≤ (s.chan boilerChannel).value ∧
    (s.steam.gen = .delivering ∨ s.steam.gen = .ready ∧ s.steam.dwellBay.isSome = true ∧ s.steam.dwellRemaining ≤ 1) := by
  simp only [counts, BayContext.currentKind, hr, hk, Option.map_some, Arbiter.holdsSteam, Params.boilerReady,
    SteamUnit.deliversThisTick, Bool.and_eq_true, Bool.or_eq_true, decide_eq_true_eq, and_assoc]
  exact ⟨fun h => ⟨h.2.1, h.2.2, h.1⟩, fun h => ⟨h.2.2, h.1, h.2.1⟩⟩

theorem counts_dry {r : StepRecord} (hr : (s.bay k).currentStep = some r) (hk : r.kind = .dry) : s.counts k = true ↔
    ((s.air k).damper = .opened ∨ (s.air k).damper = .opening ∧ (s.air k).travel ≤ 1) ∧
    (s.dry.comp = .running ∨ s.dry.comp = .startWait ∧ s.dry.minOff ≤ 1) := by
  simp [counts, BayContext.currentKind, hr, hk, AirBay.opensThisTick, DryingCircuit.runsThisTick]

theorem counts_plain {r : StepRecord} (hr : (s.bay k).currentStep = some r) (hk : r.kind ∈ [.settle, .refresh, .cool]) :
    s.counts k = true := by
  simp only [List.mem_cons, List.not_mem_nil, or_false] at hk
  unfold counts BayContext.currentKind; rw [hr]
  rcases hk with e | e | e <;> simp [e]

end State

/-! ## The command table (R176) -/

theorem command_codes : (Command.all.map fun c => c.code.toNat) =
    [0x10, 0x11, 0x12, 0x13, 0x14, 0x15, 0x16, 0x20, 0x21, 0x22, 0x23, 0x30, 0x31, 0x32, 0x33, 0x34, 0x35, 0x36, 0x37,
     0x40, 0x41, 0x42, 0x50, 0x51, 0x5F] := by decide

theorem ofCode_iff (b : Byte) (c : Command) : Command.ofCode b = some c ↔ b = c.code := by
  constructor
  · intro h
    have := List.find?_some h
    simpa [eq_comm] using this
  · rintro rfl; exact Command.ofCode_code c

theorem permitted_bay (k : Bay) : (Command.all.filter fun c => c.permitted (.bay k)) =
    [.loadRecipe, .loadProgram, .start, .abort, .skipStep, .clear, .readBay, .readPlant, .readRecipe, .readNotices,
     .setNoticeMask] := rfl

/-- The lengths that suit each command of fixed length on the service port. -/
theorem lengths_service : ((Command.all.filter fun c => c ≠ .loadProgram && c ≠ .writeRecipe).map fun c =>
    (List.range 109).filter (c.lengthSuits .service)) =
    [[4], [1], [1], [1], [1], [1], [0], [1], [0], [2], [40], [0], [2], [1], [1], [1], [1], [0], [1], [0], [2], [0],
     [0]] := by decide +kernel

/-! ## Notices (R180) and replies (R173) -/

namespace State

variable (s : State)

theorem raisePlant_notices (n : PlantNotice) (q : Port) : ((s.raisePlant n).port q).notices =
    if n = .library ∧ q ≠ .service then (s.port q).notices else (s.port q).notices.addPlant n := by
  cases q with
  | service => simp [raisePlant, port]
  | bay k => by_cases h : n = .library <;> simp [raisePlant, port, h]

theorem addBay_addBay (ns : NoticeSet) (n : BayNotice) (k : Bay) : (ns.addBay n k).addBay n k = ns.addBay n k := by
  cases n <;> simp [NoticeSet.addBay, BitVec.or_assoc]

theorem addPlant_addPlant (ns : NoticeSet) (n : PlantNotice) : (ns.addPlant n).addPlant n = ns.addPlant n := by
  cases n <;> rfl

/-- A port's change is its own. -/
theorem mapPort_others (p : Port) (f : PortRec → PortRec) : { s.mapPort p f with ports := s.ports } = s := by
  cases p <;> rfl

@[simp] theorem reply_port (p q : Port) (st : Status) : (s.reply p st).port q =
    if q = p then (s.port q).answer st [] else s.port q := mapPort_port s p _ q

@[simp] theorem replyWith_port (p q : Port) (data : List Byte) : (s.replyWith p data).port q =
    if q = p then (s.port q).answer .ok data else s.port q := mapPort_port s p _ q

end State

/-- The kinds of a part of a set are those of the set that were asked for (R181, R182). -/
theorem kinds_select (ns : NoticeSet) (m : BitVec 10) : (ns.select m).kinds = ns.kinds &&& m := by
  obtain ⟨a, b, c, d, e, f, g, h, i, j⟩ := ns
  have hz : ∀ (x : Bool) (v : BitVec 4), ((if x = true then v else 0) != 0) = (x && (v != 0)) := by
    intro x v; cases x <;> simp
  simp only [NoticeSet.kinds, NoticeSet.select, hz]
  generalize (a != 0) = a; generalize (b != 0) = b; generalize (c != 0) = c; generalize (d != 0) = d
  generalize (e != 0) = e
  apply BitVec.eq_of_getLsbD_eq
  intro i hi
  have : i = 0 ∨ i = 1 ∨ i = 2 ∨ i = 3 ∨ i = 4 ∨ i = 5 ∨ i = 6 ∨ i = 7 ∨ i = 8 ∨ i = 9 := by omega
  rcases this with rfl | rfl | rfl | rfl | rfl | rfl | rfl | rfl | rfl | rfl <;>
  simp only [BitVec.getLsbD_append, BitVec.getLsbD_and, BitVec.getLsbD_ofBool] <;> simp [Bool.and_comm]

/-! ## READ_BAY (R17, R183) -/

theorem byte_code (b : Byte) (n : Nat) (h : n < 256) (hb : b = byteOf n) : b.toNat = n := by
  rw [hb]; simp [byteOf]; omega

/-- A two-byte field is read back. -/
theorem nat16_be16 (n : Nat) (h : n < 65536) : nat16 ((be16 n).getD 0 0) ((be16 n).getD 1 0) = n := by
  simp [be16, nat16, byteOf]; omega

theorem be16_length (n : Nat) : (be16 n).length = 2 := rfl

theorem be16Int_length (i : Int) : (be16Int i).length = 2 := rfl

theorem be32Int_length (i : Int) : (be32Int i).length = 4 := rfl

/-- The times of READ_BAY in whole seconds: step remaining and purge rounded up, wait elapsed rounded down (R17). -/
theorem bayReport_times (s : State) (k : Bay) :
    (s.bayReport k).getD 4 0 = (be16 (secondsUp (s.bay k).stepRemaining)).getD 0 0 ∧
    (s.bayReport k).getD 5 0 = (be16 (secondsUp (s.bay k).stepRemaining)).getD 1 0 ∧
    (s.bayReport k).getD 6 0 = (be16 (secondsDown (s.bay k).waitElapsed)).getD 0 0 ∧
    (s.bayReport k).getD 7 0 = (be16 (secondsDown (s.bay k).waitElapsed)).getD 1 0 ∧
    (s.bayReport k).getD 13 0 = (be16 (secondsUp ((s.bay k).purgeRemaining.getD 0))).getD 0 0 ∧
    (s.bayReport k).getD 14 0 = (be16 (secondsUp ((s.bay k).purgeRemaining.getD 0))).getD 1 0 := by
  simp [State.bayReport, be16]

/-- The codes of READ_BAY at their places. -/
theorem bayReport_codes (s : State) (k : Bay) :
    (s.bayReport k).getD 0 0 = (s.bay k).state.code ∧ (s.bayReport k).getD 8 0 = (s.arb.grantHeld k).code ∧
    (s.bayReport k).getD 9 0 = (s.bay k).outcome.code ∧ (s.bayReport k).getD 10 0 = faultCode (s.bay k).fault ∧
    (s.bayReport k).getD 15 0 = (s.air k).damper.code := by
  simp [State.bayReport, be16]

/-! ## The program record on the wire (Wire Layouts) -/

theorem StepRecord.bytes_length (r : StepRecord) : r.bytes.length = 8 := by simp [StepRecord.bytes, be16, be16Int]

/-- Step `i` of a record stands in the eight bytes from 8·i on. -/
theorem flatMap_bytes_getD (l : List StepRecord) (i j : Nat) (r : StepRecord) (hr : l[i]? = some r) (hj : j < 8) :
    (l.flatMap StepRecord.bytes).getD (8 * i + j) 0 = r.bytes.getD j 0 := by
  induction l generalizing i with
  | nil => simp at hr
  | cons q l ih =>
    rw [List.flatMap_cons]
    cases i with
    | zero =>
      simp only [List.getElem?_cons_zero, Option.some.injEq] at hr
      subst hr
      rw [List.getD_append _ _ _ _ (by rw [StepRecord.bytes_length]; omega), Nat.mul_zero, Nat.zero_add]
    | succ i =>
      rw [List.getElem?_cons_succ] at hr
      rw [List.getD_append_right _ _ _ _ (by rw [StepRecord.bytes_length]; omega), StepRecord.bytes_length,
        show 8 * (i + 1) + j - 8 = 8 * i + j by omega, ih i hr]

/-- The bytes of a record after its four header bytes are those of its steps. -/
theorem Program.bytes_getD (p : Program) (i j : Nat) (r : StepRecord) (hr : p.steps[i]? = some r) (hj : j < 8) :
    p.bytes.getD (4 + 8 * i + j) 0 = r.bytes.getD j 0 := by
  rw [← flatMap_bytes_getD p.steps i j r hr hj]
  unfold Program.bytes
  rw [List.getD_append_right _ _ _ _ (by simp [be16]; omega)]
  congr 1
  simp [be16]; omega

/-! ## The steam unit's scan (R93 to R99) -/

namespace SteamUnit

variable (u : SteamUnit) (h : Bay) (boiler rh target : Int) (bad : Bool)

theorem dwellHolds_iff : u.dwellHolds h = true ↔ ∃ b, u.dwellBay = some b ∧ b ≠ h ∧ u.dwellRemaining ≠ 0 := by
  unfold dwellHolds; cases u.dwellBay <;> simp

/-- The heater in the regulating states (R96, R107). -/
theorem regulate_eq (hg : u.gen = .heating ∨ u.gen = .ready ∨ u.gen = .delivering) :
    u.regulate boiler = { u with
      heater := if boiler < 1200 then true else if 1250 ≤ boiler then false else u.heater
      dryFire := if 1250 ≤ boiler then 0 else u.dryFire } := by
  have e : u.regulate boiler = if boiler < 1200 then switchHeater true u
      else if 1250 ≤ boiler then switchHeater false u else u := by
    unfold regulate; rcases hg with hg | hg | hg <;> rw [hg]
  rw [e]
  by_cases h1 : boiler < 1200
  · rw [if_pos h1, if_pos h1, if_neg (by omega)]; rfl
  · rw [if_neg h1, if_neg h1]; split <;> rfl

theorem regulate_rest (hg : u.gen = .off ∨ u.gen = .warmHold ∨ u.gen = .tripped) : u.regulate boiler = u := by
  unfold regulate; rcases hg with hg | hg | hg <;> rw [hg]

/-- The holder's valve in DELIVERING (R98, R99). -/
theorem modulate_eq : u.modulate h bad rh target = { u with
    valves := u.valves.set h
      (if bad then false else if u.valves.get h then decide (rh < target) else decide (rh < target - 20)) } := by
  have hs (b : Bool) (hb : u.valves.get h = b) : u = { u with valves := u.valves.set h b } := by
    obtain ⟨⟩ := u; simp only [mk.injEq, true_and, and_true] at hb ⊢; subst hb; fin_cases h <;> rfl
  unfold modulate
  cases bad
  · cases hv : u.valves.get h
    · by_cases hr : rh < target - 20
      · simp [hr]
      · simpa [hr] using hs false hv
    · by_cases hr : target ≤ rh
      · simp [hr, Int.not_lt.mpr hr]
      · simpa [hr, Int.not_le.mp hr] using hs true hv
  · rfl

theorem advance_cold (hg : u.gen = .heating) (hb : boiler < 1050) : u.advance h boiler = u := by
  unfold advance; rw [hg]; exact if_neg (by simpa using hb)

/-- HEATING to READY, and no further under another bay's dwell (R93, R94). -/
theorem advance_held (hg : u.gen = .heating) (hb : 1050 ≤ boiler) (hd : u.dwellHolds h = true) :
    u.advance h boiler = { u with gen := .ready } := by
  unfold advance; rw [hg]; dsimp only; rw [if_pos hb]; exact if_neg (by intro hc; rw [show dwellHolds h { u with gen := .ready } = u.dwellHolds h from rfl, hd] at hc; cases hc.2)

/-- HEATING through READY to DELIVERING (R93, R94). -/
theorem advance_delivers (hg : u.gen = .heating) (hb : 1050 ≤ boiler) (hd : u.dwellHolds h = false) :
    u.advance h boiler = { u with
      gen := .delivering, valves := u.valves.set h true
      dwellBay := if u.dwellBay = some h then none else u.dwellBay
      dwellRemaining := if u.dwellBay = some h then 0 else u.dwellRemaining } := by
  unfold advance; rw [hg]; dsimp only; rw [if_pos hb]; exact if_pos ⟨rfl, hd⟩

theorem advance_ready (hg : u.gen = .ready) : u.advance h boiler = { u with gen := if boiler < 1050 then .heating else .ready } := by
  unfold advance; rw [hg]; dsimp only; split
  · rfl
  · rw [← hg]

theorem advance_other (hg : u.gen ≠ .heating) (hr : u.gen ≠ .ready) : u.advance h boiler = u := by
  unfold advance; cases h' : u.gen <;> simp_all

/-- The steam unit's part of a scan that does not trip, where the state takes no part in it. -/
theorem scan_rest (hg : u.gen = .off ∨ u.gen = .warmHold ∨ u.gen = .tripped) : u.scan h boiler bad rh target = u := by
  have hn : u.gen ≠ .heating ∧ u.gen ≠ .ready ∧ u.gen ≠ .delivering := by rcases hg with h | h | h <;> simp [h]
  unfold scan; dsimp only; rw [if_neg hn.2.2, advance_other u h boiler hn.1 hn.2.1, regulate_rest u boiler hg]

theorem scan_delivering (hg : u.gen = .delivering) : u.scan h boiler bad rh target = (u.modulate h bad rh target).regulate boiler := by
  have hm : (u.modulate h bad rh target).gen = .delivering := by rw [modulate_eq]; exact hg
  unfold scan; dsimp only; rw [if_pos hg, advance_other _ h boiler (by simp [hm]) (by simp [hm])]

theorem scan_ready (hg : u.gen = .ready) :
    u.scan h boiler bad rh target = ({ u with gen := if boiler < 1050 then .heating else .ready } : SteamUnit).regulate boiler := by
  unfold scan; dsimp only; rw [if_neg (by simp [hg]), advance_ready u h boiler hg]

theorem scan_heating (hg : u.gen = .heating) : u.scan h boiler bad rh target = (u.advance h boiler).regulate boiler := by
  unfold scan; dsimp only; rw [if_neg (by simp [hg])]

end SteamUnit

/-! ## Fans (R126) -/

namespace AirBay

variable (a : AirBay) (level : Nat)

theorem setFan_off (h : a.fanLevel ≠ 0) : a.setFan 0 = { a with fanLevel := 0, tacho := Tacho.cleared } := by
  simp [setFan, h]

theorem setFan_on (hl : level ≠ 0) (h : a.fanLevel = 0) : a.setFan level = { a with fanLevel := level, tacho := Tacho.commandedOn } := by
  simp [setFan, hl, h]

theorem setFan_keeps (hl : level ≠ 0) (h : a.fanLevel ≠ 0) : a.setFan level = { a with fanLevel := level } := by
  simp [setFan, hl, h]

/-- What a tick counts, and the report that it makes due (R120, R126 to R128). -/
theorem tick_eq : a.tick = { a with
    travel := if a.damper = .opening ∨ a.damper = .closing then a.travel - 1 else a.travel
    tacho := if a.fanLevel = 0 then a.tacho
      else { a.tacho with silence := min 50 (a.tacho.silence + 1), spinUp := a.tacho.spinUp.map (· - 1) }
    reportDue := decide (a.fanLevel ≠ 0 ∧ a.tacho.spinUp.map (· - 1) = some 0 ∧ 50 ≤ a.tacho.silence + 1 ∧
      a.tacho.stalled = false) } := by
  simp only [tick, count, moving, fanOn, Params.silenceTicks, spinUpDue, stallCondition, spunUp]
  by_cases hf : a.fanLevel = 0
  · simp [hf]
  · simp [hf, Bool.and_assoc]

end AirBay

end Sys2Proof.Machine
end

