-- ==== Sys2Proof/Tests/Slice0.lean ====
section
/-!
SUPPORT. The author's own tests: ill-formed terms that the check refuses, values of the spec's worked examples, and for every
statement with hypotheses a state and operands that meet them all.
-/

namespace Sys2Proof.Tests

open Sys2Proof Sys2Proof.Machine

/-! ## Small terms -/

def stepOf (kind : StepKind) : StepRecord :=
  { kind := kind, fanLevel := 8, flags := if kind = .dry then 1 else 0, duration := 60, target := if kind = .dry then 350 else 400,
    airTemp := if kind = .dry then 40 else 0 }

/-- A normalized program of the five kinds, in the order STEAM, SETTLE, DRY, REFRESH, COOL. -/
def program : Program :=
  { fabricLimit := 60, rateFloor := 300,
    steps := [stepOf .steam, { stepOf .settle with fanLevel := 0, target := 0 }, stepOf .dry, { stepOf .refresh with target := 0 },
      stepOf .cool] }

/-- The part after reset, bay `k` in a state at a step of the program. -/
def bayAt (k : Bay) (st : BayState) (index : Nat) (door : Door) : State :=
  State.reset.mapBay k fun b =>
    { b with state := st, program := some program, source := some .inlined, stepIndex := index, door := door }

/-- Bay `k` holds STEAM. -/
def steamAt (k : Bay) : State := (bayAt k .active 0 .shut).mapArb fun a => { a with steamRow := some k }

/-- Bay `k` holds DRY slot A with reheat ON. -/
def dryAt (k : Bay) : State :=
  ((bayAt k .active 2 .shut).mapArb fun a => { a with slotA := some { bay := k, reheat := .on } }).mapDry fun d =>
    { d with comp := .running, speed := 60, minRun := some 5 }

/-- Bay `k` asks for DRY. -/
def asking (k : Bay) (mark : AgeMark) : State :=
  (bayAt k .await 2 .shut).mapArb fun a =>
    { a with requests := a.requests.set k (some { resource := .dry, boost := true, age := 30000, bypass := 0, ageMark := mark }) }

/-- The service port waits for the library. -/
def writing (ph : WritePhase) : State :=
  { State.reset.mapPort .service PortRec.becomePending with
    library := { slots := State.reset.library.slots, op := .writing 3 ph program } }

/-! ## Ill-formed terms are refused -/

theorem test_good_frame_is_no_refused_frame : (Instr.frameRefused .service (frame .readPlant [])).wellFormed = false := by decide

theorem test_no_bytes_are_no_frame : (Instr.frameRefused .service []).wellFormed = false := by decide

theorem test_unknown_code_is_a_refused_frame : (Instr.frameRefused .service [0x17, 0]).wellFormed = true := by decide

theorem test_load_program_too_long :
    (Instr.loadProgram (.main 0) 0 (List.replicate 106 0)).wellFormed = false ∧
    (Instr.loadProgram (.main 0) 0 (List.replicate 105 0)).wellFormed = true := by decide

theorem test_write_recipe_too_long :
    (Instr.writeRecipe .service 0 (List.replicate 108 0)).wellFormed = false ∧
    (Instr.writeRecipe .service 0 (List.replicate 107 0)).wellFormed = true := by decide

theorem test_settings_of_another_length :
    (Instr.setPlant .service (List.replicate 39 0)).wellFormed = false ∧
    (Instr.setPlant .service (List.replicate 41 0)).wellFormed = false ∧
    (Instr.setPlant .service Settings.defaults.bytes).wellFormed = true := by decide

/-! ## Worked examples of the spec -/

/-- 01, Normalizing a Record. -/
theorem test_normalizing_a_record :
    (Program.normalize
      { fabricLimit := 80, rateFloor := 1200,
        steps := [⟨.steam, 20, 1, 5, 1200, 90⟩, ⟨.settle, 6, 0, 300, 55, 0⟩, ⟨.dry, 0, 1, 9000, 350, 90⟩, ⟨.cool, 12, 0, 600, 100, 40⟩] }) =
      { fabricLimit := 75, rateFloor := 1200,
        steps := [⟨.steam, 15, 0, 10, 1000, 0⟩, ⟨.settle, 0, 0, 300, 0, 0⟩, ⟨.dry, 1, 1, 7200, 350, 75⟩, ⟨.cool, 12, 0, 600, 150, 0⟩] } := by
  decide

/-- 07, One Scan Converted. -/
theorem test_one_scan_converted :
    convertCode (classOf 8) 2500 12 = 513 ∧ convertCode (classOf 9) 1850 (-5) = 451 ∧ convertCode (classOf 10) 2100 0 = 413 ∧
    convertCode (classOf 11) 4070 40 = 1000 ∧ convertCode (classOf 16) 2400 0 = 1172 ∧ convertCode (classOf 17) 1000 0 = 244 ∧
    convertCode (classOf 18) 3500 0 = 855 := by decide

/-- 07, A Sensor Fails and Returns: fault state, run count and value, scan by scan. -/
theorem test_a_sensor_fails_and_returns :
    (([2250, 4095, 4095, 4095, 2260, 4095, 2262, 2270, 2268] : List Code).foldl
      (fun (l : List Channel) code => (((l.head?).getD Channel.afterReset).judge .bayTemperature code) :: l) []).reverse.map
      (fun c => (c.faulted, c.run, c.value)) =
    [(false, 0, 449), (false, 1, 449), (false, 2, 449), (true, 0, 449), (true, 1, 452), (true, 0, 452), (true, 1, 452),
     (true, 2, 454), (false, 0, 454)] := by decide

/-- 08, the worked cases: drying range, limits, steam absorption. -/
theorem test_worked_samples :
    density 520 = 91596 ∧ absHumidity 520 120 = 10992 ∧ density 385 = 47722 ∧ absHumidity 385 450 = 21475 ∧
    airVolume 120 9600 = 25000 ∧ sampleExtraction 520 120 385 450 120 9600 = 262 ∧
    sampleExtraction (-100) 0 900 1000 2000 5000 = 169440 ∧ density 899 = 422198 ∧
    extraction 0 5 300000 = 2 ∧ extraction 5 0 300000 = -2 ∧ extraction 0 1 400000 = 0 ∧
    sampleExtraction 480 950 420 900 120 16000 = -315 := by decide

/-- 06, R124: level 8 gives 171 of 320 cycles. -/
theorem test_fan_cycles : (fanHighCycles 0, fanHighCycles 8, fanHighCycles 15) = (0, 171, 320) := by decide

/-- 03, R61: 3150 W does not fit the budget of 3000 W, 2750 W does. -/
theorem test_fit_at_reset_settings :
    (dryAt 0).arb.draw .running = 1350 ∧ State.reset.arb.draw .off = 250 ∧
    ((dryAt 0).refreshDraw).fits (Entry.fresh .steam false) = false ∧
    ((dryAt 0).setReheat 0 .pending).fits (Entry.fresh .steam false) = true := by decide

/-- 09, A Drain Pump Fails Under Drying: at a start level of 701 a level of 651 passes the check and 709 does not. -/
theorem test_progress_checks :
    ((State.reset.mapWater fun w => { (w.runFrom 701) with drainRun := some 12000, condensateLevel := 651 }).drainProgressCheck).water.drainRun =
      some 0 ∧
    ((State.reset.mapWater fun w => { (w.runFrom 701) with drainRun := some 12000, condensateLevel := 709 }).drainProgressCheck).water.pump =
      .fault := by decide

/-- COMMISSION grants a waiting boosted entry, its reheater at once: 250 + 700 + 400 W. -/
theorem test_commission_grants_the_waiting_entry :
    ((asking 1 .young).takeCommission .service).arb.slotA = some { bay := 1, reheat := .on } ∧
    ((asking 1 .young).takeCommission .service).arb.committed = 1350 := by decide

/-- The reset state as the queue meets it: a step on an empty queue idles, and one takes the front command. -/
theorem test_step_of_the_reset_state : step State.reset = .next State.reset := rfl

/-! ## States and operands that meet a statement's hypotheses, clause by clause -/

/-- StepTakesTheFrontCommand. -/
theorem test_meets_step : State.reset.pending = [] := rfl

/-- A reset finds the service port's master in the middle of a read. -/
def midRead : Pins := { Config.firstPins with serviceRead := true }

/-- EachReset…, AResetLeaves… (both). -/
theorem test_meets_resets : State.reset.Accepts .service ∧ (∀ k : Bay, State.reset.Accepts (.bay k)) ∧
    State.reset.ResetWith (.powerOnReset midRead true) midRead ∧ State.reset.ResetWith (.resetnReset midRead) midRead ∧
    State.reset.ResetWith (.resetPart .service Config.firstPins) Config.firstPins ∧
    State.reset.ResetBy (.resetnReset midRead) :=
  ⟨by decide, by decide, .inl ⟨_, rfl⟩, .inr (.inl rfl), .inr (.inr ⟨rfl, by decide⟩), _, .inr (.inl rfl)⟩

/-- R175: the cut read gives 0xFF from then on, and a port that was not being read gives its reply. -/
theorem test_read_cut_by_a_reset :
    (((State.reset.resetAll .pin midRead).port .service).cutReadByte = some 0xFF ∧
      ((State.reset.resetAll .pin midRead).port (.bay 0)).cutReadByte = none) := by decide

/-- AFrameIsChecked…: each check at its boundary, in order. -/
theorem test_meets_frame_checks :
    refuseFrame .service [] true = some .badLength ∧ refuseFrame .service [0x20] false = some .badLength ∧
    refuseFrame .service (0x17 :: 109 :: List.replicate 109 0) false = some .badLength ∧
    refuseFrame .service [0x20, 1] false = some .badLength ∧ refuseFrame .service [0x17, 0] false = some .unknownCommand ∧
    refuseFrame (.bay 2) [0x31, 0] false = some .notPermitted ∧ refuseFrame .service [0x20, 1, 0] false = some .badLength ∧
    refuseFrame .service [0x12, 1, 4] false = some .badValue ∧ refuseFrame .service [0x12, 1, 3] false = none ∧
    refuseFrame (.bay 2) [0x11, 2, 0, 0] false = some .badValue ∧
    refuseFrame (.bay 2) (0x11 :: 46 :: 0 :: 9 :: program.bytes) false = none := by decide

/-- ARefusedFrame…, with the longest frame that is stored and the first that is not. -/
theorem test_meets_refused_frame : State.reset.Accepts (.bay 3) ∧ refusedFrame (.bay 3) [0x31, 0] = true ∧
    refusedFrame (.bay 3) (List.replicate 112 0) = true ∧ refusedFrame (.bay 3) (List.replicate 113 0) = true := by decide

/-- APendingPort…. -/
theorem test_meets_pending_port : Instr.port? (.start (.main 1)) = some .service ∧
    ((writing .erasing).port .service).phase = .pending := by decide

/-- AWriteStart…: both addresses of a strap, the states a write may find, and the write that is open. -/
theorem test_meets_write_start : State.reset.Accepts .service ∧ (State.reset.port .service).phase = .idle ∧
    (0x5A : BitVec 7) = (if State.reset.addrHigh then 0x5B else 0x5A) ∧ (0x5B : BitVec 7) ≠ (if State.reset.addrHigh then 0x5B else 0x5A) ∧
    (State.reset.reply .service .ok).Accepts .service ∧ ((State.reset.reply .service .ok).port .service).phase = .replyReady ∧
    ((State.reset.mapPort .service PortRec.startWrite).port .service).phase = .receiving false ∧
    (State.reset.mapPort .service PortRec.startWrite).Accepts .service := by decide

/-- R171: the 112th data byte is acknowledged, the 113th is not and marks the frame. -/
theorem test_the_last_byte_acknowledged :
    ((PortRec.afterReset false).receive (List.replicate 111 0)).acknowledgesByte = true ∧
    ((PortRec.afterReset false).receive (List.replicate 112 0)).acknowledgesByte = false ∧
    ((PortRec.afterReset false).receive (List.replicate 112 0)).overrun = false ∧
    ((PortRec.afterReset false).receive (List.replicate 113 0)).overrun = true := by decide +kernel

/-- R175: a reset cuts a write, and the port neither acknowledges nor takes another byte of it. -/
theorem test_a_cut_write_takes_no_byte :
    let cut := ((State.reset.mapPort .service PortRec.startWrite).resetAll .pin Config.firstPins).port .service
    cut.acknowledgesByte = false ∧ cut.storeByte 0x20 = cut := by decide

/-- R171: a START repeated to another address ends the empty write. -/
theorem test_repeated_start_ends_an_empty_write :
    exec (.writeStart .service 0x5B) (State.reset.mapPort .service PortRec.startWrite) = .next State.reset := by rfl

/-- ABayPort…: the two lengths it names. -/
theorem test_meets_bay_port : State.reset.Accepts (.bay 0) ∧ Settings.defaults.bytes.length = 40 ∧ program.bytes.length ≤ 107 := by decide

/-- TheReports…. -/
theorem test_meets_reports : State.reset.Accepts (Origin.main 3).port ∧ (Origin.main 3).inRange = true ∧
    State.reset.Accepts (Origin.panel 3).port ∧ (Origin.panel 3).inRange = true ∧ (Origin.main 4).inRange = false ∧
    State.reset.RingWhole := by decide

/-- Slot 3 is VALID. -/
def stored : State := { State.reset with library := { slots := State.reset.library.slots.set 3 (some program), op := .idle } }

/-- ReadRecipe…, ThePortCommands…: no such slot, BUSY, EMPTY, VALID. -/
theorem test_meets_read_recipe : State.reset.Accepts .service ∧ 16 ≤ (16 : Byte).toNat ∧ (15 : Byte).toNat = (15 : Fin 16).val ∧
    ((writing .erasing).Accepts (.bay 0) ∧ (writing .erasing).library.busy 3 = true) ∧
    (State.reset.library.busy 15 = false ∧ State.reset.library.slots[15] = none) ∧
    (stored.library.busy 3 = false ∧ stored.library.slots[3] = some program ∧ stored.Accepts (.bay 0)) := by decide

/-- TheLibraryCommands…: a record that fails, a slot that does, and neither. -/
theorem test_meets_library_commands : State.reset.Accepts .service ∧ program.bytes.length ≤ 107 ∧ 16 ≤ (16 : Byte).toNat ∧
    parseProgram (program.bytes.set 4 6) = none ∧ (15 : Byte).toNat = (15 : Fin 16).val ∧
    parseProgram program.bytes = some program := by decide

/-- TheLibraryGoes…: every operation and phase. -/
theorem test_meets_library_phases : State.reset.library.op = .idle ∧
    (writing .erasing).library.op = .writing 3 .erasing program ∧ (writing .programming).library.op = .writing 3 .programming program ∧
    (writing .marking).library.op = .writing 3 .marking program ∧ (State.reset.library.eraseFrom 14).op = .erasingAll 14 ∧
    (14 : Fin 16).val + 1 < 16 ∧ ¬ (15 : Fin 16).val + 1 < 16 ∧ (State.reset.library.eraseFrom 15).op = .erasingAll 15 ∧
    (State.reset.library.startErase 7).op = .erasing 7 := by decide

/-- AWrittenRecipe…. -/
theorem test_meets_written_recipe :
    ∃ s : State, s.Accepts .service ∧ s.Accepts (.bay 1) ∧ (3 : Byte).toNat = (3 : Fin 16).val ∧
      parseProgram program.bytes = some program ∧ s.pending =
        .writeRecipe .service 3 program.bytes :: .libraryPhaseEnd :: .libraryPhaseEnd :: .libraryPhaseEnd ::
          .readRecipe (.bay 1) 3 :: [] :=
  ⟨{ State.reset with pending := [.writeRecipe .service 3 program.bytes, .libraryPhaseEnd, .libraryPhaseEnd, .libraryPhaseEnd,
      .readRecipe (.bay 1) 3] }, by decide, by decide, by decide, by decide, rfl⟩

/-- TargetAndAirTemperature… (a fabric limit of 30 or more), ProgramRecords…, SettingsRecords…. -/
theorem test_meets_records : program.steps[4]? = some (stepOf .cool) ∧ 30 ≤ program.fabricLimit ∧ program.OnTheWire ∧
    parseProgram program.bytes = some program ∧ Settings.defaults.inRange = true ∧ Settings.defaults.marksOrdered = true ∧
    Settings.defaults.bytes.length = 40 ∧ parseSettings Settings.defaults.bytes = some Settings.defaults := by decide

/-- ALoad…: a record sent, a slot read, and each slot test that fails. -/
theorem test_meets_load : stored.Accepts (Origin.main 2).port ∧ (Origin.main 2).inRange = true ∧ stored.NothingOwed ∧
    (stored.bay (Origin.main 2).bay).state = .idle ∧ parseProgram program.bytes = some program ∧
    ((3 : Byte).toNat = (3 : Fin 16).val ∧ stored.library.busy 3 = false ∧ stored.library.slots[3] = some program) ∧
    stored.library.slots[15] = none ∧ (writing .marking).library.busy 3 = true ∧ (writing .marking).Accepts (.bay 2) := by decide

/-- ABayCommandOutside…: a state outside each command's. -/
theorem test_meets_wrong_state : (bayAt 1 .loaded 0 .shut).Accepts (.bay 1) ∧ ((bayAt 1 .loaded 0 .shut).bay 1).state ≠ .idle ∧
    parseProgram program.bytes ≠ none ∧ ((bayAt 1 .await 0 .shut).bay 1).state ≠ .loaded ∧
    ((bayAt 1 .halted 0 .shut).bay 1).state ∈ [.idle, .finished, .halted] ∧
    ((bayAt 1 .loaded 0 .shut).bay 1).state ∈ [.idle, .loaded, .finished, .halted] ∧
    ((bayAt 1 .held 0 .opened).bay 1).state ∈ [.idle, .loaded, .await, .active, .held] := by decide

/-- AStepIsEntered…: the door open, a plain step, STEAM and DRY held and not held. -/
theorem test_meets_step_entry :
    (((bayAt 1 .held 0 .opened).bay 1).currentStep = some (stepOf .steam) ∧ ((bayAt 1 .held 0 .opened).bay 1).door = .opened) ∧
    (((bayAt 1 .loaded 4 .shut).bay 1).currentStep = some (stepOf .cool) ∧ ((bayAt 1 .loaded 4 .shut).bay 1).door = .shut) ∧
    ((steamAt 1).arb.holdsSteam 1 = true ∧ ((steamAt 1).bay 1).currentStep = some (stepOf .steam) ∧ ((steamAt 1).bay 1).door = .shut) ∧
    (steamAt 1).arb.holdsDry 1 = false ∧
    ((dryAt 1).arb.holdsDry 1 = true ∧ (dryAt 1).arb.reheatOf 1 = some .on ∧ ((dryAt 1).bay 1).currentStep = some (stepOf .dry)) ∧
    (bayAt 1 .loaded 0 .shut).arb.holdsSteam 1 = false ∧ (bayAt 1 .loaded 2 .shut).arb.holdsDry 1 = false := by decide

/-- StartEnters…: the door open, a plain step, a plant step. -/
theorem test_meets_start :
    (∀ i ∈ [0, 2, 4], ∀ d ∈ [Door.shut, .opened], (bayAt 1 .loaded i d).Accepts .service ∧ (bayAt 1 .loaded i d).HoldersActive ∧
      ((bayAt 1 .loaded i d).bay 1).state = .loaded ∧ ((bayAt 1 .loaded i d).bay 1).door = d) ∧
    (Origin.main 1).inRange = true ∧ ((bayAt 1 .loaded 4 .shut).bay 1).currentStep = some (stepOf .cool) ∧
    ((bayAt 1 .loaded 0 .shut).bay 1).currentStep = some (stepOf .steam) ∧
    ((bayAt 1 .loaded 2 .shut).bay 1).currentStep = some (stepOf .dry) := by decide

/-- AbortGivesUp…, SkipStep… (a step that has a next, and the last), Clear…. -/
theorem test_meets_abort_skip_clear : (dryAt 1).Accepts (.bay 1) ∧ (Origin.panel 1).inRange = true ∧
    ((dryAt 1).bay 1).state ∈ [.loaded, .await, .active, .held] ∧ ((dryAt 1).bay 1).state ∈ [.await, .active, .held] ∧
    ((dryAt 1).bay 1).program = some program ∧ ((dryAt 1).bay 1).stepIndex + 1 < program.steps.length ∧
    (((bayAt 1 .active 4 .shut).bay 1).state ∈ [.await, .active, .held] ∧
      program.steps.length ≤ ((bayAt 1 .active 4 .shut).bay 1).stepIndex + 1) ∧
    ((bayAt 1 .halted 4 .shut).bay 1).state ∈ [.finished, .halted] ∧ (bayAt 1 .halted 4 .shut).NothingOwed ∧
    (bayAt 1 .halted 4 .shut).Accepts (.bay 1) := by decide

/-- Bay 1 with its duration limit reached in a step. -/
def atLimit (index : Nat) : State := (bayAt 1 .active index .shut).mapBay 1 fun b => { b with limitReached := true }

/-- TheBayTimers…: the wait, the purge with the door closed and open, the limit in the last step and in one before it, the mark, and
each condition that makes a demand. -/
theorem test_meets_bay_timers :
    (∃ s : State, (s.bay 1).state = .await ∧ (s.bay 1).waitReached = true) ∧
    (∀ d, ∃ s : State, (s.bay 1).state = .halted ∧ (s.bay 1).door = d ∧ (s.bay 1).purgeRemaining = some 0) ∧
    (((atLimit 4).bay 1).state = .active ∧ ((atLimit 4).bay 1).limitReached = true ∧ ((atLimit 4).bay 1).program = some program ∧
      ((atLimit 4).bay 1).currentStep = some (stepOf .cool) ∧ ((atLimit 4).bay 1).stepIndex + 1 = program.steps.length) ∧
    ((atLimit 2).bay 1).currentStep = some (stepOf .dry) ∧ ((atLimit 2).bay 1).stepIndex + 1 < program.steps.length ∧
    (350 : Int) * 1000 < 350001 :=
  ⟨⟨(asking 1 .young).mapBay 1 fun b => { b with waitReached := true }, by decide, by decide⟩,
    fun d => ⟨(bayAt 1 .halted 2 d).mapBay 1 fun b => { b with purgeRemaining := some 0 }, rfl, rfl, rfl⟩,
    by decide, by decide, by decide, by decide⟩

/-- R45: a purge at its end ends with the door open too. -/
theorem test_purge_ends_with_the_door_open :
    ((((bayAt 1 .halted 2 .opened).mapBay 1 fun b => { b with purgeRemaining := some 0 }).purgeEnd 1).bay 1).purgeRemaining = none := by
  decide

theorem test_meets_demands : ((bayAt 1 .await 2 .shut).bay 1).currentStep = some (stepOf .dry) ∧
    ((bayAt 1 .await 2 .shut).bay 1).state ∈ [.await, .active] ∧ ((bayAt 1 .held 2 .opened).bay 1).state ∈ [.idle, .loaded, .held, .finished] ∧
    ((bayAt 1 .active 3 .shut).bay 1).state = .active ∧ ((bayAt 1 .halted 3 .shut).bay 1).state = .halted := by decide

/-- ADoorOpening…, ADoorClosing…. -/
theorem test_meets_doors : (((steamAt 1).bay 1).door = .shut ∧ ((steamAt 1).bay 1).state ∈ [.await, .active]) ∧
    (((bayAt 1 .halted 0 .shut).bay 1).door = .shut ∧ (bayAt 1 .halted 0 .shut).NothingOwed ∧
      ((bayAt 1 .halted 0 .shut).bay 1).state ∈ [.idle, .loaded, .held, .finished, .halted]) ∧
    (((bayAt 1 .held 0 .opened).bay 1).door = .opened ∧ ((bayAt 1 .held 0 .opened).bay 1).state = .held) ∧
    (((bayAt 1 .halted 0 .opened).bay 1).door = .opened ∧ (bayAt 1 .halted 0 .opened).NothingOwed ∧
      ((bayAt 1 .halted 0 .opened).bay 1).state ≠ .held) := by decide

/-- ABayTakesAScan…: a faulted inlet in a STEAM step; the fifth hot scan and the fourth; each end test met and not met. -/
theorem test_meets_bay_scan : ((steamAt 1).bay 1).state = .active ∧ ((steamAt 1).bay 1).program = some program ∧
    ((steamAt 1).bay 1).currentStep = some (stepOf .steam) ∧ (State.reset.bay 1).state ≠ .active ∧
    ((steamAt 1).withChannel 4 fun c => { c with faulted := true }).sensorFaultTest 1 = true ∧
    ((((steamAt 1).withChannel 4 fun c => { c with value := 651 }).mapBay 1 fun b => { b with overheatRun := 4 }).scanBay 1).bays.b1.fault =
      some .overheat ∧
    ((((steamAt 1).withChannel 4 fun c => { c with value := 651 }).mapBay 1 fun b => { b with overheatRun := 3 }).scanBay 1).bays.b1.overheatRun =
      4 ∧
    ((((steamAt 1).withChannel 4 fun c => { c with value := 650 }).mapBay 1 fun b => { b with overheatRun := 4 }).scanBay 1).bays.b1.overheatRun =
      0 ∧
    ((dryAt 1).mapEst 1 fun _ => { m := 350000, window := [50, 45, 40, 35, 30, 28, 25, 47], valid := true }).endTest 1 = true ∧
    ((dryAt 1).mapEst 1 fun _ => { m := 350000, window := [50, 45, 40, 35, 30, 28, 25, 48], valid := true }).endTest 1 = false ∧
    ((bayAt 1 .active 4 .shut).withChannel 6 fun c => { c with value := 400 }).endTest 1 = true ∧
    ((bayAt 1 .active 4 .shut).withChannel 6 fun c => { c with value := 401 }).endTest 1 = false := by decide

/-! ### Arbiter -/

/-- The part in COMMISSIONED. -/
def commissioned (s : State) : State := s.mapArb fun a => { a with commissioning := .commissioned }

/-- Eligibility…, TheDraw…: an entry of either resource. -/
theorem test_meets_eligibility : WaterInventory.afterReset.drainFails.drainFault = true ∧ (Entry.fresh .steam false).resource = .steam ∧ (Entry.fresh .dry true).resource = .dry ∧
    (commissioned State.reset).eligible 1 (Entry.fresh .steam false) = true ∧
    (commissioned State.reset).eligible 1 (Entry.fresh .dry true) = true := by decide

/-- APass…: a pass that grants bay 1, one that stalls at it, one that ends. -/
theorem test_meets_pass :
    (commissioned (asking 1 .young)).pass [0, 1, 2, 3] [] =
      .grants 1 { resource := .dry, boost := true, age := 30000, bypass := 0, ageMark := .young } [] ∧
    ((commissioned (asking 1 .blocking)).mapArb fun a => { a with budget := 949 }).pass [0, 1, 2, 3] [] =
      .stalls 1 { resource := .dry, boost := true, age := 30000, bypass := 0, ageMark := .blocking } [] ∧
    ((commissioned (asking 1 .blocking)).mapArb fun a => { a with budget := 950 }).pass [0, 1, 2, 3] [] ≠ .ends ∧
    State.reset.pass [0, 1, 2, 3] [] = .ends := by decide

/-- APass…, what a grant and a stall lead to: an entry that would fit without reheat and one that would not; a free slot. -/
theorem test_meets_grant : (commissioned (asking 1 .young)).NothingOwed ∧ (commissioned (asking 1 .young)).arb.holdsDry 1 = false ∧
    (commissioned (asking 1 .young)).arb.slotA = none ∧ ([] : List Bay).Nodup ∧ ((commissioned (asking 1 .young)).air 1).damper ≠ .opened ∧
    ((commissioned (asking 1 .young)).air 1).reheater = false ∧
    ((commissioned (dryAt 0)).mapArb fun a => { a with budget := 3149, committed := 1350 }).fitsUnheated (Entry.fresh .steam false) = true ∧
    ((commissioned (dryAt 0)).mapArb fun a => { a with budget := 2749, committed := 1350 }).fitsUnheated (Entry.fresh .steam false) = false := by
  decide

/-- AnEvaluationLeaves…. -/
theorem test_meets_evaluation : (commissioned (asking 1 .young)).RingWhole ∧
    (commissioned (asking 1 .young)).arb.committed = (commissioned (asking 1 .young)).arb.draw .off ∧
    ([0, 1, 2, 3] : List Bay).Nodup ∧ (([0, 1, 2, 3] : List Bay).filter fun k => (dryAt 1).arb.reheatOf k = some .on) = [1] ∧
    (([0, 1, 2, 3] : List Bay).filter fun k => ((dryAt 1).setReheat 1 .pending).arb.reheatOf k = some .pending) = [1] ∧
    ((dryAt 1).setReheat 1 .pending).reheatFits = true := by decide

/-- TheArbiterCommands…, SetPlant…: both commissioning states, the operands at both sides of their bounds, both records. -/
theorem test_meets_arbiter_commands : State.reset.Accepts .service ∧ State.reset.arb.commissioning = .uncommissioned ∧
    (commissioned State.reset).Accepts .service ∧ (commissioned State.reset).arb.commissioning = .commissioned ∧
    (1 : Byte).toNat ≤ 1 ∧ 2 ≤ (2 : Byte).toNat ∧ (3 : Byte).toNat = (3 : Bay).val ∧ 4 ≤ (4 : Byte).toNat ∧
    State.reset.NoGrantBefore ∧ parseSettings Settings.defaults.bytes = some Settings.defaults ∧
    parseSettings (List.replicate 40 0) = none ∧ (List.replicate 40 (0 : Byte)).length = 40 := by decide

/-- SetBudget…: a budget that the draw meets exactly, a fall below a lawful draw, a holder of either resource to revoke. -/
theorem test_meets_budget :
    (State.reset.Accepts .service ∧ State.reset.arb.committed ≤ max 1000 (min 7200 (0 : Word16).toNat)) ∧
    max 1000 (min 7200 (1349 : Word16).toNat) < (commissioned (dryAt 1)).refreshDraw.arb.committed ∧
    (commissioned (dryAt 1)).refreshDraw.arb.committed ≤ max 1000 (min 7200 (1350 : Word16).toNat) ∧
    (commissioned (dryAt 1)).refreshDraw.Accepts .service ∧ (commissioned (dryAt 1)).refreshDraw.PowerLawful :=
  ⟨by decide, by decide, by decide, by decide,
    { ring := by decide, claims := by decide, settings := by decide, before := by decide, waits := by decide, budget := by decide }⟩

theorem test_meets_revocation : ((steamAt 1).bay 1).currentStep = some (stepOf .steam) ∧ (steamAt 1).arb.holdsSteam 1 = true ∧
    (steamAt 1).arb.holdsDry 1 = false ∧ ((dryAt 1).bay 1).currentStep = some (stepOf .dry) ∧ (dryAt 1).arb.holdsDry 1 = true := by decide

/-- R80 to R84: a fall to 1000 W sheds the reheat of the one DRY holder and no more: 250 + 700 W. -/
theorem test_shed_stops_where_it_fits :
    ((commissioned (dryAt 1)).refreshDraw.takeBudget .service 0).arb.slotA = some { bay := 1, reheat := .pending } ∧
    ((commissioned (dryAt 1)).refreshDraw.takeBudget .service 0).arb.committed = 950 := by decide

/-- ClearTrip…: neither to clear, the generator at 999 and not at 1000, the drain fault. -/
theorem test_meets_clear_trip : State.reset.Accepts .service ∧ State.reset.tripClearable = false ∧
    ((State.reset.mapSteam fun u => { u with gen := .tripped }).withChannel 16 fun c => { c with value := 999 }).tripClearable = true ∧
    ((State.reset.mapSteam fun u => { u with gen := .tripped }).withChannel 16 fun c => { c with value := 1000 }).tripClearable = false ∧
    (State.reset.mapWater WaterInventory.drainFails).tripClearable = true ∧
    (State.reset.mapWater WaterInventory.drainFails).NothingOwed := by decide

/-- AnAgedEntry…: bypass counts of 2 and 3. -/
theorem test_meets_aged_entry (b : Nat) : ∃ e : Entry, ∃ s : State, s.arb.requests.get 1 = some e ∧ e.ageMark = .reached ∧ e.bypass = b :=
  ⟨{ resource := .dry, boost := true, age := 30000, bypass := b, ageMark := .reached },
    (State.reset.mapArb fun a => { a with requests := a.requests.set 1 (some
      { resource := .dry, boost := true, age := 30000, bypass := b, ageMark := .reached }) }), rfl, rfl, rfl⟩

/-! ### Steam unit -/

/-- The generator in a state, a dwell of bay 2 running. -/
def generator (g : GenState) : SteamUnit :=
  { SteamUnit.afterReset Config.firstPins.lines with gen := g, dwellBay := some 2, dwellRemaining := 1 }

/-- ASteamGrant…: boilers at 1049 and 1050, a dwell that holds the valve back, one of the holder, one elapsed; settings of 0 and
not; each state at a grant's end. -/
theorem test_meets_steam_grant :
    ((generator .off).startGrant 1049 1).gen = .heating ∧ ((generator .warmHold).startGrant 1050 1).gen = .ready ∧
    ((generator .off).startGrant 1050 2).gen = .delivering ∧
    (({ generator .off with dwellRemaining := 0 } : SteamUnit).startGrant 1050 1).gen = .delivering ∧
    (({ generator .off with dwellBay := none } : SteamUnit).startGrant 1050 1).gen = .delivering ∧
    (((generator .off).startGrant 1050 1).dwellBay, ((generator .off).startGrant 1050 1).dwellRemaining) = (some 2, 1) ∧
    (((generator .off).startGrant 1050 2).dwellBay, ((generator .off).startGrant 1050 2).dwellRemaining) = (none, 0) ∧
    ((generator .off).startGrant 1199 1).heater = true ∧ ((generator .off).startGrant 1200 1).heater = false ∧
    ((generator .delivering).endGrant Settings.defaults 1).dwellBay = some 1 ∧
    ((generator .delivering).endGrant { Settings.defaults with dwell := 0, warmHold := 0 } 1).gen = .off ∧
    ((generator .ready).endGrant Settings.defaults 1).gen = .warmHold ∧ (generator .tripped).gen = .tripped := by decide

/-- TheSteamUnit…: each threshold from both sides. -/
theorem test_meets_steam_scan :
    (generator .ready).scanTrip false 1400 = none ∧ (generator .ready).scanTrip false 1401 = some .overtemp ∧
    (generator .ready).scanTrip true 1000 = some .sensor ∧ (generator .tripped).scanTrip true 1500 = none ∧
    ((generator .delivering).scan 1 1250 false 379 400).valves.b1 = true ∧
    ((generator .delivering).scan 1 1250 false 380 400).valves.b1 = false ∧
    ((generator .ready).scan 1 1049 false 0 400).gen = .heating ∧ ((generator .heating).scan 1 1050 false 0 400).gen = .ready := by
  decide

/-- TheSteamUnit…, in the part: a scan that does not trip, with a holder and without one; a HEATING holder under another bay's dwell
and under none. -/
theorem test_meets_steam_scan_in_the_part :
    (steamAt 1).steam.scanTrip ((steamAt 1).chan 16).faulted ((steamAt 1).chan 16).value = none ∧ (steamAt 1).arb.steamRow = some 1 ∧
    ((steamAt 1).bay 1).currentStep = some (stepOf .steam) ∧
    State.reset.steam.scanTrip (State.reset.chan 16).faulted (State.reset.chan 16).value = none ∧ State.reset.arb.steamRow = none ∧
    (generator .heating).dwellHolds 1 = true ∧ (generator .heating).dwellHolds 2 = false := by decide

/-- ATrip…: a fill timeout, a dry fire and a scan that trips, under a delivering holder, and one without a holder. -/
theorem test_meets_trip : (steamAt 1).HoldersActive ∧ (steamAt 1).arb.steamRow = some 1 ∧ (steamAt 1).arb.steamRow ≠ some 2 ∧
    ((steamAt 1).mapSteam fun u => { u with gen := .delivering, fill := some 2000 }).steam.fillDue = true ∧
    ((steamAt 1).mapSteam fun u => { u with gen := .delivering, fill := some 1999 }).steam.fillDue = false ∧
    ((steamAt 1).mapSteam fun u => { u with gen := .delivering, heater := true, lowProbe := .dry, dryFire := 500 }).steam.dryFireDue = true ∧
    (steamAt 1).steam.scanTrip ((steamAt 1).withChannel 16 fun c => { c with value := 1401 }).scan.channels[16].faulted 1401 =
      some .overtemp ∧
    State.reset.HoldersActive ∧ State.reset.arb.steamRow = none ∧ (steamAt 1).arb.settings.dwell ≠ 0 := by decide

/-- TheSteamTimers…: a dwell elapsed with a READY holder, the warm hold at 0, each probe either way. -/
theorem test_meets_steam_timers :
    (∃ s : State, s.steam.dwellBay ≠ none ∧ s.steam.dwellRemaining = 0 ∧ s.arb.steamRow = some 1 ∧ s.steam.gen = .ready) ∧
    (∃ s : State, s.steam.dwellBay ≠ none ∧ s.steam.dwellRemaining = 0 ∧ s.arb.steamRow = none) ∧
    (∃ s : State, s.steam.gen = .warmHold ∧ s.steam.warmHold = some 0) ∧
    State.reset.steam.lowProbe = .wet ∧ State.reset.steam.highProbe = .wet ∧
    (State.reset.highProbeDry.lowProbeDry).steam.lowProbe = .dry ∧ (State.reset.highProbeDry.lowProbeDry).steam.highProbe = .dry :=
  ⟨⟨(steamAt 1).mapSteam fun _ => { generator .ready with dwellRemaining := 0 }, by decide, by decide, by decide, by decide⟩,
    ⟨State.reset.mapSteam fun _ => { generator .off with dwellRemaining := 0 }, by decide, by decide, by decide⟩,
    ⟨State.reset.mapSteam fun u => { u with gen := .warmHold, warmHold := some 0 }, by decide, by decide⟩,
    by decide, by decide, by decide, by decide⟩

/-! ### Drying circuit -/

/-- TheCompressorTimers…: both expiries, both ends of a travel, the reheater's conditions. -/
theorem test_meets_compressor_timers :
    ((dryAt 1).mapDry fun d => { d with comp := .startWait, minOff := 0 }).dry.minOffDue = true ∧
    ((dryAt 1).mapDry fun d => { d with comp := .tail, minRun := some 0 }).dry.minRunDue = true ∧
    (((dryAt 1).mapAir 1 fun a => { a with damper := .opening, travel := 0 }).air 1).travelDue = true ∧
    (((dryAt 1).mapAir 1 fun a => { a with damper := .closing, travel := 0 }).air 1).travelDue = true ∧
    ((dryAt 1).mapAir 1 fun a => { a with damper := .opened }).reheatReady 1 = true ∧ (dryAt 1).reheatReady 1 = false ∧
    ((dryAt 1).bay 1).currentStep = some (stepOf .dry) := by decide

/-- The fan of bay 1 turning but silent, its last edge at 65500. -/
def turning : State :=
  (dryAt 1).mapAir 1 fun a =>
    { a with fanLevel := 8, tacho := { Tacho.commandedOn with reference := some 65500, silence := 50, spinUp := some 0 } }

/-- ATachometerEdge…: off, no reference, a period of 199 and one of 200 across the wrap. -/
theorem test_meets_tachometer : (State.reset.air 1).fanLevel = 0 ∧ (turning.air 1).fanLevel ≠ 0 ∧
    ((turning.mapAir 1 AirBay.silenceTimeout).air 1).tacho.reference = none ∧ (turning.air 1).tacho.reference = some 65500 ∧
    ((163 : Word16).toNat + 65536 - (65500 : Word16).toNat) % 65536 = 199 ∧
    ((164 : Word16).toNat + 65536 - (65500 : Word16).toNat) % 65536 = 200 := by decide

/-- ATachometerEdge…, the fan commanded: off, on from off, from one level to another. -/
theorem test_meets_fan : (turning.air 1).fanLevel ≠ 0 ∧ (State.reset.air 1).fanLevel = 0 ∧ (12 : Nat) ≠ 0 := by decide

/-- ASilentFan…: spinning up, spun up in an ACTIVE bay and in one that is not. -/
theorem test_meets_stall : turning.NothingOwed ∧ (turning.air 1).fanLevel ≠ 0 ∧ (turning.air 1).tacho.silence = 50 ∧
    (turning.air 1).tacho.reference ≠ none ∧ (turning.air 1).tacho.spinUp = some 0 ∧ (turning.air 1).tacho.stalled = false ∧
    (turning.bay 1).state = .active ∧ ((turning.mapBay 1 fun b => { b with state := .await }).bay 1).state ≠ .active ∧
    ((turning.mapAir 1 fun a => { a with tacho := { a.tacho with spinUp := some 1 } }).air 1).tacho.spinUp ≠ some 0 ∧
    (turning.air 1).reportDue = false ∧ ((turning.mapAir 1 AirBay.becomeStalled).air 1).tacho.stalled = true := by decide

/-- Bay 1 at the limit of its STEAM step, on the tick that has found its fan stalled. -/
def stalling : State :=
  ((steamAt 1).mapBay 1 fun b => { b with limitReached := true }).mapAir 1 fun _ =>
    ({ turning.air 1 with tacho := { (turning.air 1).tacho with silence := 49, spinUp := some 1 } } : AirBay).tick

/-- R47: the step end taken first goes on to SETTLE, whose fan is off, and the report then halts the bay there; the door opening taken
first leaves the bay HELD. -/
theorem test_stall_after_the_step_end :
    (stalling.air 1).reportDue = true ∧
    (let s := (stalling.stepEndsOnLimit 1).silenceTimeout 1
     (s.bay 1).state = .halted ∧ (s.bay 1).fault = some .fanStall ∧ (s.bay 1).stepIndex = 1 ∧ (s.air 1).reportDue = false) ∧
    (let s := (stalling.silenceTimeout 1).stepEndsOnLimit 1
     (s.bay 1).state = .halted ∧ (s.bay 1).stepIndex = 0) ∧
    ((stalling.doorOpening 1).spinUpElapsed 1).bays.b1.state = .held := by decide

/-- ASilentFan…: a report that finds the fan commanded off, the bay ACTIVE or not. -/
theorem test_meets_stall_report :
    (let s := stalling.stepEndsOnLimit 1
     s.NothingOwed ∧ (s.air 1).reportDue = true ∧ (s.air 1).fanLevel = 0 ∧ (s.bay 1).state = .active) ∧
    (let s := stalling.doorOpening 1
     s.NothingOwed ∧ (s.air 1).reportDue = true ∧ (s.air 1).fanLevel = 0 ∧ (s.bay 1).state ≠ .active) := by decide

/-! ### Scanner, estimators, water -/

/-- TheScanner…: channels 18 and 19, the phase at 200, the conversion of channel 17. -/
theorem test_meets_scanner : State.reset.Accepts .service ∧ 19 ≤ (19 : Byte).toNat ∧ (18 : Byte).toNat = (18 : ChannelNo).val ∧
    (State.reset.mapScan fun c => { c with phase := 200 }).scan.phase = 200 ∧
    ((State.reset.mapScan fun c => { c with converting := some 17 }).scan.converting = some 17 ∧ (17 : ChannelNo).val + 1 < 19) := by
  decide

/-- Every channel but the last has its code. -/
def lastChannel : State :=
  State.reset.mapScan fun c =>
    { c with converting := some 18, channels := c.channels.map fun x => { x with inFlight := some 1000 } }

/-- AScanCompletes…. -/
theorem test_meets_scan_complete : lastChannel.scan.converting = some 18 ∧
    ∀ n : ChannelNo, n ≠ 18 → lastChannel.scan.channels[n].inFlight = some 1000 := by decide +kernel

/-- AScanCompletes…, ATick…: what waits leads somewhere. -/
theorem test_meets_due : lastChannel.RunsTo lastChannel.expiryRows lastChannel.takeExpiries ∧
    (atLimit 2).RunsTo ((atLimit 2).expiryRows ++ [.scanStart]) (atLimit 2).takeDue :=
  ⟨(State.runsTo_expiryRows _ _).mpr rfl, (State.runsTo_due _ _).mpr rfl⟩

/-- ACode…: trimmed codes at both ends, at and beyond the clamp. -/
theorem test_meets_conversion : (4095 : Int) = max 0 (min 4095 (((4080 : Code).toNat : Int) + 40)) ∧
    (0 : Int) = max 0 (min 4095 (((30 : Code).toNat : Int) + -63)) ∧ (2512 : Int) = max 0 (min 4095 (((2500 : Code).toNat : Int) + 12)) := by
  decide

/-- Density…: the last index, where the fraction reaches 50. -/
theorem test_meets_density : ((19 : Nat) : Int) = min 19 ((max (-100) (min 900 900) + 100) / 50) ∧
    ((50 : Nat) : Int) = max (-100) (min 900 900) + 100 - 50 * (19 : Nat) ∧
    ((0 : Nat) : Int) = max (-100) (min 900 500) + 100 - 50 * (12 : Nat) ∧ (899 : Int) < 900 := by decide

/-- ASample…: the four conditions hold; the period is missing; a channel is faulted; the largest arguments. -/
theorem test_meets_sample :
    ((turning.mapAir 1 fun a => { a with tacho := { a.tacho with period := some 9600 } }).samplePeriod 1) = some 9600 ∧
    (turning.bay 1).state ∈ [.await, .active] ∧ 0 < (turning.air 1).fanLevel ∧
    (∀ j : Fin 4, (turning.chan (bayChannel 1 j)).faulted = false) ∧ (turning.air 1).tacho.period = none ∧
    (((turning.mapAir 1 fun a => { a with tacho := { a.tacho with period := some 9600 } }).withChannel 7 fun c =>
      { c with faulted := true }).samplePeriod 1) = none ∧
    (423600 ≤ 423600 ∧ 400000 ≤ 400000) ∧ 0 < 200 := by decide

/-- TheWaterInventory…: a drain fitted and none, the pump's four passages at the marks. -/
theorem test_meets_water : ({ Settings.defaults with drainFitted := true } : Settings).drainFitted = true ∧
    Settings.defaults.drainFitted = false ∧ Channel.afterReset.faulted = false ∧ WaterInventory.afterReset.pump = .off ∧
    (WaterInventory.afterReset.runFrom 701).pump = .running ∧ WaterInventory.afterReset.drainFails.pump = .fault ∧
    (Settings.defaults.drainOn : Int) ≤ 700 ∧ (699 : Int) < Settings.defaults.drainOn ∧ (300 : Int) ≤ Settings.defaults.drainOff ∧
    (Settings.defaults.drainOff : Int) < 301 := by decide

/-- TheWaterInventory…, its reports: the low latch sets; the full latch sets with a DRY slot held; neither changes. -/
theorem test_meets_water_reports :
    (let s := State.reset.withChannel 17 fun c => { c with value := 149 }
     (s.water.scan s.arb.settings (s.chan reservoirChannel) (s.chan condensateChannel)).reservoirLow = true ∧ s.water.reservoirLow = false) ∧
    (let s := (dryAt 1).withChannel 18 fun c => { c with value := 900 }
     (s.water.scan s.arb.settings (s.chan reservoirChannel) (s.chan condensateChannel)).condensateFull = true ∧
       s.water.condensateFull = false ∧ s.scanWater.arb.slotA = none ∧ s.scanWater.dry.comp = .off) ∧
    (let s := State.reset.withChannel 17 fun c => { c with value := 150 }
     (s.water.scan s.arb.settings (s.chan reservoirChannel) (s.chan condensateChannel)).reservoirLow = s.water.reservoirLow ∧
       (s.water.scan s.arb.settings (s.chan reservoirChannel) (s.chan condensateChannel)).condensateFull = s.water.condensateFull ∧
       s.NothingOwed) := by decide

/-- A drain pump at its progress check, the level at `level`. -/
def draining (level : Int) : State :=
  State.reset.mapWater fun w => { (w.runFrom 701) with drainRun := some 12000, condensateLevel := level }

/-- R165: the check of a tick reads the level of the scan before it, not of the one that the tick started. -/
theorem test_check_before_the_scan_complete :
    ((State.mapScan (fun _ => lastChannel.scan) (draining 652)).finishScan 0x100).water.pump = .fault := by decide +kernel

/-- TheProgressCheck…: passed at 651, failed at 652. -/
theorem test_meets_progress_check : ∀ l ∈ [651, 652], (draining l).NothingOwed ∧ (draining l).water.pump = .running ∧
    (draining l).water.drainRun = some 12000 ∧ (draining l).water.drainStart = some 701 ∧
    (draining l).water.condensateFull = false ∧
    (l = 651 → (draining l).water.condensateLevel ≤ 701 - 50) ∧ (l = 652 → 701 - 50 < (draining l).water.condensateLevel) := by decide

/-- TheProgressCheck…, failing with the full latch already standing. -/
theorem test_failing_check_with_the_latch_standing :
    let s := (draining 652).mapWater fun w => { w with condensateFull := true }
    s.NothingOwed ∧ s.water.checkDue = true ∧ s.water.condensateFull = true ∧
      s.drainProgressCheck = ({ s with water := s.water.drainFails }).raisePlant .trip := by decide

/-- Log 32: a record without a drain stops the pump and leaves no check to make; the check taken first puts the pump in FAULT. -/
theorem test_a_record_before_the_check :
    (((draining 652).mapWater (WaterInventory.onSettings Settings.defaults)).drainProgressCheck.water.pump = .off) ∧
    (((draining 652).drainProgressCheck).mapWater (WaterInventory.onSettings Settings.defaults)).water.pump = .fault := by decide

/-- TheProgressCheck…, failing under a DRY holder. -/
theorem test_failing_check_revokes : let s := { dryAt 1 with water := (draining 652).water }
    s.water.condensateFull = false ∧ s.arb.slotA ≠ none ∧ s.drainProgressCheck.arb.slotA = none ∧
      (s.drainProgressCheck.bay 1).state = .await := by decide

/-! ### Time and the laws -/

/-- ATick…: nothing owed and nothing due, in a treatment, a wait, a halt and a reset. -/
theorem test_meets_tick_dry : (dryAt 1).NothingDue := by decide
theorem test_meets_tick_wait : (asking 1 .young).NothingDue := by decide
theorem test_meets_tick_halted : (bayAt 1 .halted 0 .shut).NothingDue := by decide

/-- A bay in each state, a step that counts and one that does not. -/
theorem test_meets_tick_states : (dryAt 1).NothingOwed ∧ (∀ k : Bay, ((dryAt 1).air k).tacho.stalled = false) ∧
    ((dryAt 1).bay 1).state = .active ∧ (dryAt 1).counts 1 = false ∧
    ((dryAt 1).mapAir 1 fun a => { a with damper := .opened }).counts 1 = true ∧
    ((dryAt 1).mapAir 1 fun a => { a with damper := .opening, travel := 1 }).counts 1 = true ∧
    ((dryAt 1).mapAir 1 fun a => { a with damper := .opening, travel := 2 }).counts 1 = false ∧
    ((asking 1 .young).bay 1).state = .await ∧ ((bayAt 1 .halted 0 .shut).bay 1).state = .halted ∧
    (State.reset.bay 1).state ∈ [.idle, .loaded, .held, .finished] := by decide

/-- AnEvent…. -/
theorem test_meets_not_due : State.reset.NothingDue ∧ ((bayAt 1 .held 0 .opened).bay 1).door = .opened ∧
    (State.reset.bay 1).door = .shut ∧ (State.reset.highProbeDry.lowProbeDry).steam.lowProbe = .dry ∧
    State.reset.steam.lowProbe = .wet ∧ State.reset.scan.converting = none ∧ State.reset.scan.converting ≠ some 18 := by decide

/-- AnEvent…, each row with another timer due: a dry fire and a fill timeout of one tick, bay 1 at its limit and bay 0 not, a damper at its
end stop under a compressor that runs. -/
theorem test_meets_own_timer_not_due :
    (let s := (steamAt 1).mapSteam fun u => { u with heater := true, lowProbe := .dry, dryFire := 500, fill := some 2000 }
     s.steam.fillDue = true ∧ s.steam.dryFireDue = false ∧ s.dryFire = s) ∧
    (((atLimit 2).bay 1).limitDue = true ∧ ((atLimit 2).bay 0).limitDue = false ∧ (atLimit 2).dry.minRunDue = false) ∧
    (let s := (dryAt 1).mapAir 1 fun a => { a with damper := .opening, travel := 0 }
     (s.air 1).travelDue = true ∧ s.dry.minRunDue = false ∧ (s.air 0).travelDue = false ∧ (s.air 1).reportDue = false) := by decide

/-- Log 31: a release before the DRY_FIRE row leaves no trip, and one before the MIN_OFF_EXPIRY row no running compressor. -/
theorem test_a_release_before_the_row :
    (let s := (steamAt 1).mapSteam fun u => { u with gen := .heating, heater := true, lowProbe := .dry, dryFire := 500 }
     s.dryFire.steam.gen = .tripped ∧ (s.doorOpening 1).dryFire.steam.gen = .warmHold) ∧
    (let s := (dryAt 1).mapDry fun d => { d with comp := .startWait, minOff := 0, minRun := none }
     s.minOffExpiry.dry.comp = .running ∧ (s.doorOpening 1).minOffExpiry.dry.comp = .off) := by decide

/-- Bay 1 drying with its reheater ON: the damper OPEN, fan and flap as the step demands. -/
def drying : State :=
  (((commissioned (dryAt 1)).mapAir 1 fun a => { a with damper := .opened, reheater := true }).handDemands 1).refreshDraw

/-- ThePlantLaws…: a treatment under way, and its step. -/
theorem test_meets_plant_laws : drying.PlantLawful ∧ step drying = .next drying :=
  ⟨{ ring := by decide, owed := by decide, bypass := by decide, requests := by decide, holders := by decide, settings := by decide,
     budget := by decide, before := by decide, steam := by decide, heater := by decide, valves := by decide,
     steamTimers := by decide, compressor := by decide, speed := by decide, dampers := by decide, reheaters := by decide,
     demands := by decide, tachos := by decide, full := by decide, drain := by decide, programs := by decide, doors := by decide,
     halts := by decide, library := by decide }, rfl⟩

/-- The laws that every step keeps, on a treatment under way whose step completes. -/
theorem test_meets_laws : State.reset.LibrarySound ∧ (commissioned (dryAt 1)).refreshDraw.PowerLawful ∧ (steamAt 1).BaysLawful ∧
    (steamAt 1).EstimatesSound ∧ (steamAt 1).PendingSound ∧ step (steamAt 1) = .next (steamAt 1) :=
  ⟨by decide,
    { ring := by decide, claims := by decide, settings := by decide, before := by decide, waits := by decide, budget := by decide },
    { requests := by decide, holders := by decide, programs := by decide, doors := by decide, library := by decide },
    by decide, by decide, rfl⟩

theorem test_meets_scanner_law : (steamAt 1).ScannerSound := by decide +kernel

end Sys2Proof.Tests
end

/-!
PROOFS. Normalization of step and program records by kind (R2, R3, R4), first each field's rule, then the obligations on them.
-/

namespace Sys2Proof.Machine

/-! ## Flags and the number a target field holds -/

/-- Bit 0 is all that the mask of R3 lets through. -/
theorem getLsbD_and_one (b : Byte) (i : Nat) : (b &&& 1).getLsbD i = (decide (i = 0) && b.getLsbD i) := by
  rw [BitVec.getLsbD_and, show (1 : Byte) = 1#8 from rfl, BitVec.getLsbD_one, Bool.and_comm]
  simp

theorem getLsbD_keptFlags (kind : StepKind) (flags : Byte) (i : Nat) :
    (keptFlags kind flags).getLsbD i = (decide (kind = .dry ∧ i = 0) && flags.getLsbD i) := by
  unfold keptFlags
  split
  next hdry => rw [getLsbD_and_one]; simp [hdry]
  next hother => simp [hother]

/-- The two bytes side by side, as the unsigned number they make. -/
theorem toNat_append_eq_nat16 (hi lo : Byte) : (hi ++ lo : BitVec 16).toNat = nat16 hi lo := by
  unfold nat16
  rw [BitVec.toNat_append, ← Nat.shiftLeft_add_eq_or_of_lt lo.isLt, Nat.shiftLeft_eq]

theorem cast_nat16 (hi lo : Byte) : (nat16 hi lo : Int) = hi.toNat * 256 + lo.toNat := by
  unfold nat16; push_cast; rfl

/-- A two's complement field is 65536 below its unsigned reading exactly where the first byte's top bit is set. -/
theorem int16_eq (hi lo : Byte) : int16 hi lo =
    if 128 ≤ hi.toNat then (hi.toNat * 256 + lo.toNat : Int) - 65536 else hi.toNat * 256 + lo.toNat := by
  have hlo := lo.isLt
  unfold int16
  rw [BitVec.toInt_eq_toNat_cond, toNat_append_eq_nat16, cast_nat16, nat16]
  split <;> split <;> omega

/-- The target is signed in a COOL step only (R4). -/
theorem targetOf_eq (kind : StepKind) (hi lo : Byte) : targetOf kind hi lo =
    if kind = .cool ∧ 128 ≤ hi.toNat then (hi.toNat * 256 + lo.toNat : Int) - 65536 else hi.toNat * 256 + lo.toNat := by
  unfold targetOf
  by_cases hcool : kind = .cool
  · simp only [hcool, if_true, true_and, int16_eq]
  · simp only [hcool, if_false, false_and, cast_nat16]

/-! ## The fields of a step (R3, R4) -/

theorem normalFan_eq (kind : StepKind) (level : Nat) :
    normalFan kind level = if kind = .settle then 0 else max 1 (min 15 level) := by
  rw [normalFan, clampNat_eq (by decide)]

theorem normalAir_eq {limit : Nat} (h : 30 ≤ limit) (kind : StepKind) (airTemp : Nat) :
    normalAir kind limit airTemp = if kind = .dry then max 30 (min limit airTemp) else 0 := by
  rw [normalAir, clampNat_eq h]

/-- The range of the target, kind by kind. -/
theorem normalTarget_eq (kind : StepKind) (target : Int) :
    normalTarget kind target = match kind with
      | .steam => max 300 (min 1000 target)
      | .dry => max 0 (min 8000 target)
      | .cool => max 150 (min 600 target)
      | .settle | .refresh => 0 := by
  cases kind
  case steam => exact clampInt_eq (by decide) target
  case settle => rfl
  case dry => exact clampInt_eq (by decide) target
  case refresh => rfl
  case cool => exact clampInt_eq (by decide) target

/-! ## The record as a whole (R2) -/

theorem Program.normalize_fabricLimit (p : Program) : p.normalize.fabricLimit = max 30 (min 75 p.fabricLimit) :=
  clampNat_eq (by decide) p.fabricLimit

/-- The limit as clamped leaves room for the range of an air temperature. -/
theorem Program.thirty_le_normalize_fabricLimit (p : Program) : 30 ≤ p.normalize.fabricLimit := by
  rw [p.normalize_fabricLimit]; exact Nat.le_max_left ..

/-- Each step is normalized on its own, with the limit as clamped. -/
theorem Program.normalize_getElem? {p : Program} {i : Nat} {r : StepRecord} (h : p.steps[i]? = some r) :
    p.normalize.steps[i]? = some (r.normalize p.normalize.fabricLimit) := by
  simp only [Program.normalize, List.getElem?_map, h, Option.map_some]

theorem Program.normalize_eq (p : Program) : p.normalize =
    { fabricLimit := max 30 (min 75 p.fabricLimit), rateFloor := p.rateFloor
      steps := p.steps.map (StepRecord.normalize (max 30 (min 75 p.fabricLimit))) } := by
  rw [Program.normalize, clampNat_eq (by decide)]

/-! ## The obligations -/

/-- Settles O17, field by field (R3). -/
theorem fanFlagsAndDurationAreNormalizedByKind : Obligations.FanFlagsAndDurationAreNormalizedByKind := by
  intro limit r
  have hfan := normalFan_eq r.kind r.fanLevel
  have hflags := fun (i : Nat) (_ : i < 8) => getLsbD_keptFlags r.kind r.flags i
  have hduration := clampNat_eq (lo := 10) (hi := 7200) (by decide) r.duration
  exact ⟨rfl, hfan, hflags, hduration⟩

/-- Settles O18: a step of a record is the step normalized with the limit as clamped, which is at least 30, so the fields of a step
(R4) give those of a record (R2). -/
theorem targetAndAirTemperatureAreNormalizedByKind : Obligations.TargetAndAirTemperatureAreNormalizedByKind := by
  refine ⟨fun p i r hr => ?inRecord, Program.normalize_fabricLimit, fun p => ⟨p.normalize_eq, p.normalize_normalize⟩,
    fun limit r hlimit => ?alone, targetOf_eq⟩
  case inRecord =>
    exact ⟨_, Program.normalize_getElem? hr, normalTarget_eq r.kind r.target,
      normalAir_eq p.thirty_le_normalize_fabricLimit r.kind r.airTemp⟩
  case alone => exact ⟨normalTarget_eq r.kind r.target, normalAir_eq hlimit r.kind r.airTemp⟩

end Sys2Proof.Machine

/-!
PROOFS. Plant and arbitration: the reset values that every kind of reset leaves (R48), and the conditions of eligibility (R59, R60,
R162), first what a reset leaves block by block and what each condition reads, then the obligations on them.
-/

namespace Sys2Proof.Machine

/-! ## What a reset leaves (R17, R48, R91, R111) -/

namespace State

section

variable (cause : ResetCause) (pins : Pins) (s : State)

@[simp] theorem resetAll_arb : (s.resetAll cause pins).arb = Arbiter.afterReset := rfl

@[simp] theorem resetAll_bay (k : Bay) :
    (s.resetAll cause pins).bay k = BayContext.afterReset (pins.lines.doorHigh.get k) :=
  PerBay.get_map BayContext.afterReset pins.lines.doorHigh k

@[simp] theorem resetAll_steam : (s.resetAll cause pins).steam = SteamUnit.afterReset pins.lines := rfl

@[simp] theorem resetAll_dry : (s.resetAll cause pins).dry = DryingCircuit.afterReset := rfl

end

variable {s : State} {i : Instr} {pins : Pins}

/-- A row that resets the part completes in the reset of the whole part; only RESET_PART changes something after it, the service
port, whose own bus carries the command and so is not being read (R175, R179). -/
theorem exec_of_resetWith (h : s.ResetWith i pins) : ∃ (cause : ResetCause) (reading : Bool) (answer : PortRec → PortRec),
    exec i s = .next ((s.resetAll cause { pins with serviceRead := reading }).mapPort .service answer) := by
  obtain ⟨low, rfl⟩ | rfl | ⟨rfl, haccepts⟩ := h
  case inl => exact ⟨if low then .pin else .powerOn, pins.serviceRead, id, rfl⟩
  case inr.inl => exact ⟨.pin, pins.serviceRead, id, rfl⟩
  case inr.inr =>
    have hpasses : Command.resetPart.Passes .service [] := Command.passes_service (by decide) rfl rfl (by decide)
    exact ⟨.command, false, PortRec.answer .ok [], congrArg _ (command_of_passes _ haccepts hpasses)⟩

end State

/-! ## Eligibility (R59, R60) -/

namespace State

variable {s : State} {k : Bay} {e : Entry}

theorem eligible_steam_iff (h : e.resource = .steam) : s.eligible k e = true ↔
    s.arb.steamRow = none ∧ s.steam.gen ≠ .tripped ∧ s.water.reservoirLow = false ∧ s.arb.masks.get k = false ∧
    s.arb.commissioning = .commissioned := by
  simp only [eligible, h, Bool.and_eq_true, decide_eq_true_eq, Bool.not_eq_true', Option.isNone_iff_eq_none]
  tauto

theorem eligible_dry_iff (h : e.resource = .dry) : s.eligible k e = true ↔
    (s.arb.slotA = none ∨ s.arb.slotB = none) ∧ s.water.condensateFull = false ∧ s.arb.masks.get k = false ∧
    s.arb.commissioning = .commissioned := by
  simp only [eligible, h, Bool.and_eq_true, Bool.or_eq_true, decide_eq_true_eq, Bool.not_eq_true',
    Option.isNone_iff_eq_none]
  tauto

end State

/-! ## The condensate full latch (R162, R166) -/

/-- A drain fault sets the latch, whatever channel 18 reads. -/
theorem condensateLatch_drainFault (st : Settings) (latch faulted : Bool) (level : Int) :
    condensateLatch st latch true faulted level = true := rfl

namespace WaterInventory

/-- The drain pump's own part of a scan complete leaves the latch alone (R164). -/
@[simp] theorem judgePump_condensateFull (st : Settings) (faulted : Bool) (level : Int) (w : WaterInventory) :
    (w.judgePump st faulted level).condensateFull = w.condensateFull := by
  unfold judgePump
  split
  next fitted =>
    split
    next off => split <;> rfl
    next running => split <;> rfl
    next fault => rfl
  next idle => rfl

theorem scan_condensateFull (st : Settings) (reservoir condensate : Channel) (w : WaterInventory) :
    (w.scan st reservoir condensate).condensateFull =
      condensateLatch st w.condensateFull w.drainFault condensate.faulted condensate.value :=
  judgePump_condensateFull ..

end WaterInventory

/-! ## The obligations -/

/-- Settles O4: every reset row completes in `resetAll`, whose arbiter, bays, generator and compressor are those of the reset values,
and the answer of RESET_PART touches the service port alone. -/
theorem aResetLeavesTheArbiterAtItsResetValues : Obligations.AResetLeavesTheArbiterAtItsResetValues := by
  rintro i s ⟨pins, hreset⟩
  obtain ⟨cause, reading, answer, hexec⟩ := State.exec_of_resetWith hreset
  refine ⟨_, hexec, ?_⟩
  simp only [State.mapPort_arb, State.mapPort_bay, State.mapPort_steam, State.mapPort_dry, State.resetAll_arb,
    State.resetAll_bay, State.resetAll_steam, State.resetAll_dry]
  have hrequests : ∀ k : Bay, Arbiter.afterReset.requests.get k = none := PerBay.get_fill none
  have hmasks : ∀ k : Bay, Arbiter.afterReset.masks.get k = false := PerBay.get_fill false
  exact ⟨rfl, rfl, rfl, rfl, hrequests, rfl, rfl, hmasks, rfl, rfl, rfl, fun _ => rfl, rfl, rfl, rfl⟩

/-- Settles O32: the conditions of each resource, and the drain fault that reaches DRY through the full latch. -/
theorem eligibilityIsThePlantsAndTheArbiters : Obligations.EligibilityIsThePlantsAndTheArbiters := by
  refine fun s k e => ⟨State.eligible_steam_iff, State.eligible_dry_iff, fun st r c w hfault => ?_⟩
  rw [WaterInventory.scan_condensateFull, hfault, condensateLatch_drainFault]

end Sys2Proof.Machine

/-!
PROOFS. Conversion of a code (R134): the class of a channel, the trimmed code and its range, and the scale of a class, which rises
with the trimmed code from one end of the class's range to the other; then the obligation on them.
-/

namespace Sys2Proof.Machine

/-! ## The class of a channel -/

/-- The classes as the scan list gives them: the four channels of a bay in turn, then channels 16, 17 and 18. -/
theorem classOf_eq (n : ChannelNo) : classOf n = if n.val = 16 then .boilerTemperature
    else if n.val = 17 ∨ n.val = 18 then .level
    else if n.val % 4 = 0 ∨ n.val % 4 = 2 then .bayTemperature else .humidity := by
  have hn := n.isLt
  unfold classOf
  by_cases hbay : n.val < 16
  case pos =>
    have hparity : n.val % 2 = 0 ↔ n.val % 4 = 0 ∨ n.val % 4 = 2 := by omega
    rw [if_pos hbay, if_neg (by omega : n.val ≠ 16), if_neg (by omega : ¬(n.val = 17 ∨ n.val = 18))]
    simp only [hparity]
  case neg =>
    have hlevel : n.val ≠ 16 → n.val = 17 ∨ n.val = 18 := by omega
    rw [if_neg hbay]
    by_cases hboiler : n.val = 16
    case pos => simp only [hboiler, if_true]
    case neg => simp only [hboiler, if_false, hlevel hboiler, if_true]

/-! ## The trimmed code -/

theorem trimmedCode_eq (code : Code) (trim : Int) :
    trimmedCode code trim = max 0 (min 4095 ((code.toNat : Int) + trim)) :=
  clampInt_eq (by decide) _

theorem trimmedCode_nonneg (code : Code) (trim : Int) : 0 ≤ trimmedCode code trim := by
  rw [trimmedCode_eq]; exact le_max_left ..

theorem trimmedCode_le (code : Code) (trim : Int) : trimmedCode code trim ≤ 4095 := by
  rw [trimmedCode_eq]; exact max_le (by decide) (min_le_left ..)

/-! ## The scale of a class -/

/-- The value at the lower end of a class's range. -/
def ChannelClass.least : ChannelClass → Int
  | .bayTemperature => -100
  | .humidity | .boilerTemperature | .level => 0

/-- The value at the upper end of a class's range. -/
def ChannelClass.greatest : ChannelClass → Int
  | .bayTemperature => 900
  | .humidity | .level => 1000
  | .boilerTemperature => 2000

theorem scaleCode_zero (c : ChannelClass) : scaleCode c 0 = c.least := by
  cases c <;> rfl

theorem scaleCode_full (c : ChannelClass) : scaleCode c 4095 = c.greatest := by
  cases c <;> rfl

/-- A span spread over the 4096 codes and rounded rises with the code. -/
theorem rounded_span_mono {span t u : Int} (hspan : 0 ≤ span) (h : t ≤ u) :
    (t * span + 2047) / 4095 ≤ (u * span + 2047) / 4095 :=
  Int.ediv_le_ediv (by decide) (Int.add_le_add_right (Int.mul_le_mul_of_nonneg_right h hspan) 2047)

theorem scaleCode_mono (c : ChannelClass) {t u : Int} (h : t ≤ u) : scaleCode c t ≤ scaleCode c u := by
  cases c
  case bayTemperature => exact Int.sub_le_sub_right (rounded_span_mono (by decide) h) 100
  case humidity => exact rounded_span_mono (by decide) h
  case boilerTemperature => exact rounded_span_mono (by decide) h
  case level => exact rounded_span_mono (by decide) h

/-! ## The value of a code -/

theorem least_le_convertCode (c : ChannelClass) (code : Code) (trim : Int) : c.least ≤ convertCode c code trim := by
  rw [← scaleCode_zero]; exact scaleCode_mono c (trimmedCode_nonneg code trim)

theorem convertCode_le_greatest (c : ChannelClass) (code : Code) (trim : Int) :
    convertCode c code trim ≤ c.greatest := by
  rw [← scaleCode_full]; exact scaleCode_mono c (trimmedCode_le code trim)

/-- The clamp holds a code trimmed past 4095 at the upper end. -/
theorem convertCode_of_full_le (c : ChannelClass) {code : Code} {trim : Int} (h : 4095 ≤ (code.toNat : Int) + trim) :
    convertCode c code trim = c.greatest := by
  rw [convertCode, trimmedCode_eq, min_eq_left h, max_eq_right (by decide), scaleCode_full]

/-! ## The obligation -/

/-- Settles O50: a value is the class's scale of the trimmed code, which is the class's ends at 0 and 4095 and, rising with the
code, stays between them (R134). -/
theorem aCodeIsConvertedByTheFormulaOfItsClass : Obligations.ACodeIsConvertedByTheFormulaOfItsClass := by
  refine ⟨classOf_eq, convertCode_of_full_le .humidity (by decide), fun code trim x hx => ?_⟩
  have hscale (c : ChannelClass) : convertCode c code trim = scaleCode c x := by
    rw [convertCode, trimmedCode_eq, ← hx]
  have hzero (h : x = 0) (c : ChannelClass) : convertCode c code trim = c.least := by
    rw [hscale, h, scaleCode_zero]
  have hfull (h : x = 4095) (c : ChannelClass) : convertCode c code trim = c.greatest := by
    rw [hscale, h, scaleCode_full]
  have hleast (c : ChannelClass) := least_le_convertCode c code trim
  have hgreatest (c : ChannelClass) := convertCode_le_greatest c code trim
  exact ⟨hscale _, hscale _, hscale _, hscale _,
    fun h => ⟨hzero h _, hzero h _, hzero h _, hzero h _⟩,
    fun h => ⟨hfull h _, hfull h _, hfull h _, hfull h _⟩,
    hleast _, hgreatest _, hleast _, hgreatest _, hleast _, hgreatest _, hleast _, hgreatest _⟩

end Sys2Proof.Machine

/-!
PROOFS. The saturation density (R146): the interpolation within one step of the table, which rises with the fraction and reaches the
next entry at 50; the density at a temperature, read from either step that the temperature lies on; then the obligation on them.
-/

namespace Sys2Proof.Machine

/-! ## Within one step of the table -/

/-- The density at a fraction of the table's step from entry `i`. -/
def densityBetween (i fraction : Nat) : Nat :=
  densityAt i + ((densityAt (i + 1) - densityAt i) * fraction + 25) / 50

/-- Each entry exceeds the one before it by 50 or more, so rounding hides no fraction. -/
theorem densityAt_step : ∀ i < 20, densityAt i + 50 ≤ densityAt (i + 1) := by decide

@[simp] theorem densityBetween_zero (i : Nat) : densityBetween i 0 = densityAt i := by
  simp [densityBetween]

/-- The steps of the table meet: the end of one is the start of the next. -/
theorem densityBetween_fifty {i : Nat} (hi : i < 20) : densityBetween i 50 = densityBetween (i + 1) 0 := by
  have hstep := densityAt_step i hi
  rw [densityBetween_zero, densityBetween]
  omega

theorem densityBetween_lt_succ {i : Nat} (hi : i < 20) (f : Nat) : densityBetween i f < densityBetween i (f + 1) := by
  have hstep : 50 ≤ densityAt (i + 1) - densityAt i := Nat.le_sub_of_add_le' (densityAt_step i hi)
  simp only [densityBetween, Nat.mul_succ]
  omega

/-! ## At a temperature -/

theorem cast_tableOffset (t : Int) : (tableOffset t : Int) = max (-100) (min 900 t) + 100 := by
  rw [tableOffset, clampInt_eq (by decide)]
  omega

/-- A temperature on an entry of the table belongs to the step that ends there as well as to the one that starts there. -/
theorem density_of_tableOffset_eq {t : Int} {i f : Nat} (hi : i ≤ 19) (hf : f ≤ 50) (h : tableOffset t = 50 * i + f) :
    density t = densityBetween i f := by
  have hread : density t = densityBetween (tableIndex t) (tableOffset t - 50 * tableIndex t) := rfl
  by_cases hnext : f = 50 ∧ i < 19
  case pos =>
    obtain ⟨rfl, hi19⟩ := hnext
    have hindex : tableIndex t = i + 1 := by unfold tableIndex; omega
    have hfraction : 50 * i + 50 - 50 * (i + 1) = 0 := by omega
    rw [hread, hindex, h, hfraction, densityBetween_fifty (by omega)]
  case neg =>
    have hindex : tableIndex t = i := by unfold tableIndex; omega
    rw [hread, hindex, h, Nat.add_sub_cancel_left]

theorem density_lt_succ {t : Int} (hlo : -100 ≤ t) (hhi : t < 900) : density t < density (t + 1) := by
  have hoffset := cast_tableOffset t
  have hoffset' := cast_tableOffset (t + 1)
  have hi : tableOffset t / 50 ≤ 19 := by omega
  calc density t = densityBetween (tableOffset t / 50) (tableOffset t % 50) :=
        density_of_tableOffset_eq hi (by omega) (by omega)
    _ < densityBetween (tableOffset t / 50) (tableOffset t % 50 + 1) := densityBetween_lt_succ (by omega) _
    _ = density (t + 1) := (density_of_tableOffset_eq hi (by omega) (by omega)).symm

theorem density_strictMonoOn : StrictMonoOn density (Set.Icc (-100) 900) :=
  strictMonoOn_of_lt_succ Set.ordConnected_Icc fun _ _ ht hsucc =>
    density_lt_succ ht.1 (Int.lt_of_add_one_le hsucc.2)

/-- Past the ends of the table the density stays at its entries. -/
theorem density_clamped (t : Int) : density (max (-100) (min 900 t)) = density t := by
  have hoffset : tableOffset (max (-100) (min 900 t)) = tableOffset t := by
    have hclamped := cast_tableOffset (max (-100) (min 900 t))
    have ht := cast_tableOffset t
    omega
  simp only [density, tableIndex, hoffset]

theorem density_bounds (t : Int) : 2140 ≤ density t ∧ density t ≤ 423600 := by
  have hclamp : max (-100) (min 900 t) ∈ Set.Icc (-100 : Int) 900 := ⟨by omega, by omega⟩
  have hleast : density (-100) = 2140 := by decide
  have hgreatest : density 900 = 423600 := by decide
  have hmono := density_strictMonoOn.monotoneOn
  rw [← density_clamped t, ← hleast, ← hgreatest]
  exact ⟨hmono (by simp) hclamp hclamp.1, hmono hclamp (by simp) hclamp.2⟩

/-! ## The obligation -/

/-- Settles O51: index and fraction split the clamped temperature, so the density is the one between two entries (R146), and it rises
from each 0.1 °C to the next over the range. -/
theorem densityIsInterpolatedInTheTable : Obligations.DensityIsInterpolatedInTheTable := by
  intro entries hentries
  obtain rfl : entries = Params.densityTable := hentries
  refine ⟨fun t i f hi hf => ?between, by decide, by decide, density_bounds, fun t u ht htu hu => ?rises⟩
  case between =>
    have hoffset := cast_tableOffset t
    have hdensity : density t = densityBetween i f := density_of_tableOffset_eq (by omega) (by omega) (by omega)
    exact ⟨by omega, by omega, fun hzero => by rw [hdensity, hzero, densityBetween_zero]; rfl, hdensity⟩
  case rises => exact density_strictMonoOn ⟨ht, by omega⟩ ⟨by omega, hu⟩ htu

end Sys2Proof.Machine

/-!
PROOFS. The rows of the table as one function of the state, what a write on a port can come to, and the statements about the step, the
resets and the rows that find nothing to do.
-/

namespace Sys2Proof.Machine

namespace State

variable {s : State} {p : Port}

/-! ## Every row completes -/

/-- What a row makes of the state. -/
def after (i : Instr) (s : State) : State :=
  match exec i s with
  | .next t => t
  | .fault _ | .refused _ => s

theorem exec_eq_after (i : Instr) (s : State) : exec i s = .next (s.after i) := by
  cases i <;> rfl

theorem after_of_exec {i : Instr} {s t : State} (h : exec i s = .next t) : s.after i = t := by
  rw [after, h]

/-! ## A write on a port (R171, R172) -/

/-- A write comes to nothing, to a reply of the port, or to its block. -/
theorem takeFrame_cases (w : List Byte) (act : State → State) (s : State) (p : Port) :
    s.takeFrame p w act = s ∨ (∃ st, s.takeFrame p w act = s.reply p st) ∨ s.takeFrame p w act = act s := by
  rw [takeFrame_eq]
  split
  next => exact .inl rfl
  next =>
    split
    next st _ => exact .inr (.inl ⟨st, rfl⟩)
    next => exact .inr (.inr rfl)

theorem command_cases (c : Command) (params : List Byte) (act : State → State) (s : State) (p : Port) :
    s.command p c params act = s ∨ (∃ st, s.command p c params act = s.reply p st) ∨ s.command p c params act = act s :=
  takeFrame_cases ..

/-- What holds before a command, after any reply and after its block has taken it holds after the command. -/
theorem command_induction {P : State → Prop} {c : Command} {params : List Byte} {act : State → State} (hs : P s)
    (hreply : ∀ st, P (s.reply p st)) (hact : P (act s)) : P (s.command p c params act) := by
  obtain h | ⟨st, h⟩ | h := command_cases c params act s p
  · rwa [h]
  · rw [h]; exact hreply st
  · rwa [h]

end State

end Sys2Proof.Machine

/-!
PROOFS. What a row can do to the part, as a sequence of moves: a change of one block, a bay letting go of the plant, a grant's end, a trip,
an evaluation. Each move states its effect and, as implications, what it keeps of the block it changes, so that an invariant of the part
is proved move by move, whatever row makes the move.
-/

namespace Sys2Proof.Machine

/-! ## The laws of one block -/

/-- The laws of one bay and its place in the request list (R42, R52; 02, State Summary). -/
structure BayLawful (req : Option Entry) (b : BayContext) : Prop where
  request : req.isSome = true ↔ b.state = .await
  entry   : ∀ e ∈ req, b.currentKind.bind StepKind.resource = some e.resource
  idle    : b.program = none ↔ b.state = .idle
  source  : b.program = none ↔ b.source = none
  index   : b.program = none ∨ b.state = .loaded → b.stepIndex = 0
  record  : ∀ p ∈ b.program, p.normalize = p ∧ b.stepIndex < p.steps.length ∧ p.steps.length ≤ 12
  shut    : b.state = .await ∨ b.state = .active → b.door = .shut
  held    : b.state = .held → b.door = .opened

/-- The laws of one bay's halts (02, Bay Context). -/
structure BayHalts (b : BayContext) : Prop where
  purge : b.purgeRemaining ≠ none → b.state = .halted
  fault : b.fault ≠ none → b.outcome = .halted ∧ (b.state = .halted ∨ b.state = .idle)
  run   : b.overheatRun ≠ 0 → b.state = .active
  bound : b.overheatRun ≤ 5

/-- The laws of the steam unit under the STEAM row (R92, R96, R97, R102, R104, R108). -/
structure SteamLawful (row : Option Bay) (u : SteamUnit) : Prop where
  holder  : row.isSome = true ↔ u.gen = .heating ∨ u.gen = .ready ∨ u.gen = .delivering
  heater  : u.heater = true → u.gen = .heating ∨ u.gen = .ready ∨ u.gen = .delivering
  valves  : ∀ k : Bay, u.valves.get k = true → row = some k ∧ u.gen = .delivering
  warm    : u.warmHold.isSome = true ↔ u.gen = .warmHold
  fill    : u.gen = .tripped → u.fill = none
  dryFire : u.heater = false → u.dryFire = 0

/-- The laws of the drain pump and its fault latch (R162, R164 to R166). -/
structure DrainLawful (w : WaterInventory) : Prop where
  fault  : w.drainFault = true ↔ w.pump = .fault
  forces : w.drainFault = true → w.condensateFull = true
  start  : w.drainStart.isSome = true ↔ w.pump = .running
  run    : w.drainRun.isSome = true ↔ w.pump = .running

/-- The record of a fan commanded off is cleared (R126). -/
def TachoLawful (a : AirBay) : Prop := a.fanLevel = 0 → a.tacho = Tacho.cleared

/-- The damper is open or on its way there (R119). -/
def AirBay.damperOn (a : AirBay) : Prop := a.damper = .opened ∨ a.damper = .opening

/-- A change of one bay's air handling that its holder and its demands do not notice. -/
structure AirFollows (a b : AirBay) : Prop where
  damper : b.damperOn ↔ a.damperOn
  fan    : b.fanLevel = a.fanLevel
  vent   : b.vent = a.vent
  tacho  : TachoLawful a → TachoLawful b

/-- A change of one bay's context that its holder and its demands do not notice. -/
structure ContextFollows (req : Option Entry) (b c : BayContext) : Prop where
  state : c.state = b.state
  kind  : c.currentKind = b.currentKind
  fan   : c.fanDemand = b.fanDemand
  vent  : c.ventDemand = b.ventDemand
  laws  : BayLawful req b → BayLawful req c
  halts : BayHalts b → BayHalts c

/-- A change of one entry's age, mark and count (R53, R54, R64). -/
def EntryFollows (e f : Option Entry) : Prop :=
  ∃ g : Entry → Entry, f = e.map g ∧ ∀ e, (g e).resource = e.resource ∧ (e.bypass ≤ 3 → (g e).bypass ≤ 3)

namespace State

/-- The laws of the blocks that no grant and no request reaches, and the queue. -/
structure Beside (s t : State) : Prop where
  pending   : t.pending = s.pending
  estimates : s.EstimatesSound → t.EstimatesSound
  scanner   : s.ScannerSound → t.ScannerSound
  ports     : s.PendingSound → t.PendingSound
  library   : s.LibrarySound → t.LibrarySound

/-- The place in the request list that a bay is left with: none, as it was, or a new entry. -/
def ReqLeft (s : State) (k : Bay) (req : Option Entry) : Prop :=
  req = none ∨ req = s.arb.requests.get k ∨ ∃ r b, req = some (Entry.fresh r b)

/-- Bay `k` has changed from `s` to `t` by its laws, what it holds being held still. -/
structure BayFollows (s t : State) (k : Bay) : Prop where
  laws    : BayLawful (t.arb.requests.get k) (t.bay k)
  halts   : BayHalts (s.bay k) → BayHalts (t.bay k)
  holders : ∀ q, s.holds k q = true → (t.bay k).state = .active ∧ (t.bay k).currentKind.bind StepKind.resource = some q

end State

open State in
/-- One move of the part. -/
inductive Move (s : State) : State → Prop
  /-- The blocks beside the plant and the bays: ports, inputs, library, scanner, estimators, counter. -/
  | beside {t : State} (h : Beside s t) (hbays : t.bays = s.bays) (harb : t.arb = s.arb) (hsteam : t.steam = s.steam)
      (hdry : t.dry = s.dry) (hwater : t.water = s.water) : Move s t
  | reset (cause : ResetCause) (pins : Pins) : Move s (s.resetAll cause pins)
  /-- What a command of the arbiter sets, and the mark of an evaluation owed. -/
  | rules (a : Arbiter)
      (htable : (a.steamRow, a.slotA, a.slotB, a.requests) = (s.arb.steamRow, s.arb.slotA, s.arb.slotB, s.arb.requests))
      (hpower : (a.budget, a.committed, a.settings) = (s.arb.budget, s.arb.committed, s.arb.settings))
      (hring : s.RingWhole → a.ring.Perm [0, 1, 2, 3])
      (hcommissioning : a.commissioning = .uncommissioned → s.arb.commissioning = .uncommissioned) :
      Move s { s with arb := a }
  | settings (st : Settings) (hfirst : s.arb.commissioning = .uncommissioned) (hrange : st.inRange = true)
      (hmarks : st.marksOrdered = true) : Move s ((s.mapArb fun a => { a with settings := st }).refreshDraw)
  | entries (r : PerBay (Option Entry)) (h : ∀ k : Bay, EntryFollows (s.arb.requests.get k) (r.get k)) :
      Move s (s.mapArb fun a => { a with requests := r })
  | contexts (bs : PerBay BayContext) (h : ∀ k : Bay, ContextFollows (s.arb.requests.get k) (s.bay k) (bs.get k)) :
      Move s { s with bays := bs }
  | steam (u : SteamUnit) (h : SteamLawful s.arb.steamRow s.steam → SteamLawful s.arb.steamRow u) :
      Move s { s with steam := u }
  | dry (d : DryingCircuit) (hcomp : d.comp = s.dry.comp) (hspeed : d.speed = s.dry.speed)
      (hair : ∀ k : Bay, AirFollows (s.air k) (d.air.get k))
      (hreheat : s.ReheatersSafe → ({ s with dry := d } : State).ReheatersSafe) : Move s { s with dry := d }
  | minOff (h : s.dry.comp = .startWait) :
      Move s (s.mapDry (DryingCircuit.minOffExpiry s.arb.settings s.arb.dryHolders)).refreshDraw
  | forceStop (h : s.arb.slotA = none ∧ s.arb.slotB = none ∨ s.dry.comp = .tail) : Move s s.forceStop
  | water (w : WaterInventory) (hdrain : DrainLawful s.water → DrainLawful w)
      (hfull : w.condensateFull = true → s.water.condensateFull = true) : Move s { s with water := w }
  /-- The full latch sets, and all drying ends with it. -/
  | tankFull (w : WaterInventory) (hdrain : DrainLawful s.water → DrainLawful w) :
      Move s ({ s with water := w } : State).onTankFull
  /-- A bay lets go of what it holds. -/
  | letsGo {t : State} (k : Bay) (req : Option Entry) (raise : NoticeSet → NoticeSet) (h : s.LetsGo t k req raise)
      (hreq : s.ReqLeft k req) (hlaws : BayLawful (s.arb.requests.get k) (s.bay k) → BayLawful req (t.bay k))
      (hhalts : BayLawful (s.arb.requests.get k) (s.bay k) → BayHalts (s.bay k) → BayHalts (t.bay k)) : Move s t
  /-- A bay goes on with what it holds. -/
  | onlyBay {t : State} (k : Bay) (raise : NoticeSet → NoticeSet) (h : s.OnlyBay t k raise) (hbeside : s.Beside t)
      (hbay : BayLawful (s.arb.requests.get k) (s.bay k) → s.HoldersActive → s.LibrarySound → s.BayFollows t k) : Move s t
  /-- A bay that holds a grant has its entry withdrawn; there is none where list and table agree. -/
  | dropEntry (k : Bay)
      (h : BayLawful (s.arb.requests.get k) (s.bay k) → s.HoldersActive → s.arb.requests.get k = none) : Move s (s.withdraw k)
  | revokeSteam (k : Bay) (h : s.arb.steamRow = some k) : Move s (s.revokeSteam k)
  | revokeDry (k : Bay) (h : s.arb.holdsDry k = true) : Move s (s.revokeDry k)
  | trip (cause : TripCause) : Move s (s.tripGenerator cause)
  | reheatOff (k : Bay) (r : Reheat) (hr : r ≠ .on) (h : (s.arb.reheatOf k).isSome = true) : Move s (s.setReheat k r)
  | evaluate : Move s s.evaluate

/-- Moves one after another. -/
abbrev Moves : State → State → Prop := Relation.ReflTransGen Move

theorem Move.moves {s t : State} (h : Move s t) : Moves s t := .single h

/-- What every move keeps, a sequence of moves keeps. -/
theorem Moves.keeps {P : State → Prop} (h : ∀ {s t}, Move s t → P s → P t) {s t : State} (m : Moves s t) (hs : P s) : P t := by
  induction m with
  | refl => exact hs
  | tail _ m ih => exact h m ih

end Sys2Proof.Machine

/-!
PROOFS. The moves of ports and bays: what a write, a notice, an evaluation, a halt, a step's entry and a door event come to.
-/

namespace Sys2Proof.Machine

/-! ## The context of a bay that has a step to enter -/

/-- The bay has a working program and is at one of its steps. -/
structure Enterable (b : BayContext) : Prop where
  program : ∃ p, b.program = some p ∧ p.normalize = p ∧ b.stepIndex < p.steps.length ∧ p.steps.length ≤ 12
  source  : b.source ≠ none

/-- A bay with neither purge nor fault. -/
structure Unhalted (b : BayContext) : Prop where
  purge : b.purgeRemaining = none
  fault : b.fault = none
  bound : b.overheatRun ≤ 5

theorem BayLawful.enterable {req : Option Entry} {b : BayContext} (h : BayLawful req b) (hs : b.state ≠ .idle) : Enterable b := by
  obtain ⟨p, hp⟩ := Option.ne_none_iff_exists'.mp fun hn => hs (h.idle.mp hn)
  exact ⟨⟨p, hp, h.record p hp⟩, fun hn => hs (h.idle.mp (h.source.mpr hn))⟩

theorem BayLawful.no_request {req : Option Entry} {b : BayContext} (h : BayLawful req b) (hs : b.state ≠ .await) : req = none := by
  have hr := h.request
  cases req with
  | none => rfl
  | some e => exact absurd (hr.mp rfl) hs

theorem Enterable.currentStep {b : BayContext} (h : Enterable b) : ∃ r, b.currentStep = some r := by
  obtain ⟨p, hp, -, hi, -⟩ := h.program
  exact ⟨p.steps[b.stepIndex], by simp [BayContext.currentStep, hp, hi]⟩

/-- A bay keeps the laws of its program where neither the program nor its place in it changes. -/
theorem Enterable.lawful {b c : BayContext} {req : Option Entry} (h : Enterable b) (hp : c.program = b.program)
    (hsrc : c.source = b.source) (hi : c.stepIndex = b.stepIndex) (hidle : c.state ≠ .idle) (hloaded : c.state ≠ .loaded)
    (hreq : req.isSome = true ↔ c.state = .await)
    (hentry : ∀ e ∈ req, c.currentKind.bind StepKind.resource = some e.resource)
    (hshut : c.state = .await ∨ c.state = .active → c.door = .shut) (hheld : c.state = .held → c.door = .opened) :
    BayLawful req c := by
  obtain ⟨p, hb, hrec⟩ := h.program
  rw [hb] at hp
  exact {
    request := hreq, entry := hentry, shut := hshut, held := hheld
    idle := by simp [hp, hidle]
    source := by simp [hp, hsrc, h.source]
    index := by simp [hp, hloaded]
    record := by simpa [hp, hi] using hrec }

theorem BayHalts.unhalted {b : BayContext} (h : BayHalts b) (hh : b.state ≠ .halted) (hi : b.state ≠ .idle) : Unhalted b where
  purge := by_contra fun hp => hh (h.purge hp)
  fault := by_contra fun hf => (h.fault hf).2.elim hh hi
  bound := h.bound

theorem Unhalted.halts {b c : BayContext} (h : Unhalted b) (hp : c.purgeRemaining = b.purgeRemaining) (hf : c.fault = b.fault)
    (hr : c.overheatRun = b.overheatRun ∧ c.state = .active ∨ c.overheatRun = 0) : BayHalts c where
  purge := by simp [hp, h.purge]
  fault := by simp [hf, h.fault]
  run := by
    obtain ⟨-, ha⟩ | hz := hr
    · exact fun _ => ha
    · exact fun hn => absurd hz hn
  bound := by
    have hb := h.bound
    obtain ⟨he, -⟩ | hz := hr <;> omega

namespace State

variable {s t : State} {k : Bay}

/-! ## Ports, notices and evaluations -/

theorem PendingSound.of_bus (hl : t.library = s.library) (hp : ∀ q, (t.port q).phase = (s.port q).phase) (h : s.PendingSound) :
    t.PendingSound := by
  obtain ⟨hservice, hbays⟩ := h
  have hb (k : Bay) : (t.ports.bay.get k).phase = (s.ports.bay.get k).phase := hp (.bay k)
  have hs : t.ports.service.phase = s.ports.service.phase := hp .service
  exact ⟨by rw [hs, hl]; exact hservice, fun k => by rw [hb]; exact hbays k⟩

theorem LibrarySound.of_library (hl : t.library = s.library) (h : s.LibrarySound) : t.LibrarySound := by
  have hw : t.writtenRecord = s.writtenRecord := by unfold writtenRecord; rw [hl]
  have he : t.erasingBegun = s.erasingBegun := by funext n; unfold erasingBegun; rw [hl]
  unfold LibrarySound
  rw [hl, hw, he]
  exact h

/-- What no grant and no request reaches is as it was. -/
theorem Beside.of_stable (h : t.stable = s.stable) : s.Beside t where
  pending := congrArg Stable.pending h
  estimates := by
    have he : t.est = s.est := congrArg Stable.est h
    unfold EstimatesSound; rw [he]; exact id
  scanner := by
    have he : t.scan = s.scan := congrArg Stable.scan h
    unfold ScannerSound; rw [he]; exact id
  ports := PendingSound.of_bus (congrArg Stable.library h) fun q => congrArg PortBus.phase (congrFun (congrArg Stable.bus h) q)
  library := LibrarySound.of_library (congrArg Stable.library h)

theorem mapPort_beside {p : Port} {f : PortRec → PortRec}
    (hf : (f (s.port p)).phase = .pending ↔ (s.port p).phase = .pending) : s.Beside (s.mapPort p f) where
  pending := mapPort_pending ..
  estimates := by unfold EstimatesSound; rw [mapPort_est]; exact id
  scanner := by unfold ScannerSound; rw [mapPort_scan]; exact id
  library := LibrarySound.of_library (mapPort_library ..)
  ports := by
    rintro ⟨hservice, hbays⟩
    cases p with
    | service => exact ⟨hf.trans hservice, hbays⟩
    | bay k =>
      refine ⟨hservice, fun j => ?_⟩
      simp only [mapPort, PerBay.get_modify]
      split
      next h => subst h; exact fun hn => hbays j (hf.mp hn)
      next => exact hbays j

theorem mapPort_moves {p : Port} {f : PortRec → PortRec} (hf : (f (s.port p)).phase = .pending ↔ (s.port p).phase = .pending) :
    Moves s (s.mapPort p f) :=
  Move.moves (.beside (mapPort_beside hf) (mapPort_bays ..) (mapPort_arb ..) (mapPort_steam ..) (mapPort_dry ..) (mapPort_water ..))

theorem reply_moves {p : Port} (st : Status) (hp : s.Accepts p) : Moves s (s.reply p st) :=
  mapPort_moves (by simp [PortRec.answer, hp])

theorem replyWith_moves {p : Port} (data : List Byte) (hp : s.Accepts p) : Moves s (s.replyWith p data) :=
  mapPort_moves (by simp [PortRec.answer, hp])

theorem accepts_of_stable {p : Port} (h : t.stable = s.stable) (hp : s.Accepts p) : t.Accepts p := by
  have hphase := congrArg PortBus.phase (congrFun (congrArg Stable.bus h) p)
  exact fun hn => hp (hphase.symm.trans hn)

theorem raiseBay_moves (n : BayNotice) (k : Bay) : Moves s (s.raiseBay n k) :=
  Move.moves (.beside (.of_stable (raiseBay_stable s k n)) (raiseBay_bays ..) (raiseBay_arb ..) (by simp [raiseBay])
    (by simp [raiseBay]) (by simp [raiseBay]))

theorem raisePlant_moves (n : PlantNotice) : Moves s (s.raisePlant n) :=
  Move.moves (.beside (.of_stable (raisePlant_stable s n)) rfl rfl rfl rfl rfl)

theorem owe_moves (s : State) : Moves s (s.mapArb Arbiter.owe) := Move.moves (.rules s.arb.owe rfl rfl id id)

theorem settle_moves (s : State) : Moves s s.settle := by
  unfold settle
  split
  next => exact Move.evaluate.moves
  next => exact .refl

theorem oweAndSettle_moves (s : State) : Moves s s.oweAndSettle := (owe_moves s).trans (settle_moves _)

/-- A write on a port: nothing, a reply of a port that accepts, or what its block makes of it. -/
theorem takeFrame_moves {p : Port} {w : List Byte} {act : State → State} (h : s.Accepts p → Moves s (act s)) :
    Moves s (s.takeFrame p w act) := by
  rw [takeFrame_eq]
  split
  next => exact .refl
  next hp =>
    split
    next st _ => exact reply_moves st hp
    next => exact h hp

theorem command_moves {p : Port} {c : Command} {params : List Byte} {act : State → State} (h : s.Accepts p → Moves s (act s)) :
    Moves s (s.command p c params act) := takeFrame_moves h

theorem whenState_moves {allowed : BayState → Bool} {p : Port} {act : State → State} (hp : s.Accepts p)
    (hstable : s.Accepts p → (act s).Accepts p) (h : allowed (s.bay k).state = true → Moves s (act s)) :
    Moves s (s.whenState allowed p k act) := by
  unfold whenState
  split
  next ha =>
    exact ((h ha).trans (settle_moves _)).trans (reply_moves _ (accepts_of_stable (settle_stable _) (hstable hp)))
  next => exact reply_moves _ hp

/-! ## A halt (R43) -/

theorem mapBay_id (s : State) (k : Bay) : s.mapBay k id = s := by
  have h : s.bays.modify k id = s.bays := PerBay.modify_id ..
  simp only [mapBay, h]

/-- A halt of a bay whose context `f` has brought up to date. -/
theorem haltBay_mapBay_moves {k : Bay} {f : BayContext → BayContext} (fault : BayFault) (h : (s.bay k).state ≠ .idle)
    (hf : (f (s.bay k)).program = (s.bay k).program ∧ (f (s.bay k)).source = (s.bay k).source ∧
      (f (s.bay k)).stepIndex = (s.bay k).stepIndex) : Moves s ((s.mapBay k f).haltBay k fault) := by
  have hbay := haltBay_bay (s.mapBay k f) k fault
  rw [mapBay_bay, if_pos rfl] at hbay
  refine Move.moves (.letsGo k none _ (haltBay_letsGo (s.mapBay k f) k fault).of_mapBay (.inl rfl) (fun hb => ?laws) fun _ _ => ?halts)
  case laws =>
    rw [hbay]
    exact (hb.enterable h).lawful hf.1 hf.2.1 hf.2.2 (by simp [BayContext.halt, BayContext.goto])
      (by simp [BayContext.halt, BayContext.goto]) (by simp [BayContext.halt, BayContext.goto]) (by simp)
      (by simp [BayContext.halt, BayContext.goto]) (by simp [BayContext.halt, BayContext.goto])
  case halts =>
    rw [hbay]
    exact { purge := fun _ => rfl, fault := fun _ => ⟨rfl, .inl rfl⟩, run := fun hr => absurd rfl hr, bound := Nat.zero_le 5 }

theorem haltBay_moves {k : Bay} (fault : BayFault) (h : (s.bay k).state ≠ .idle) : Moves s (s.haltBay k fault) := by
  have hm := haltBay_mapBay_moves (f := id) fault h ⟨rfl, rfl, rfl⟩
  rwa [mapBay_id] at hm

/-! ## A bay that goes on with what it holds -/

theorem mapBay_handDemands_onlyBay (s : State) (k : Bay) (f : BayContext → BayContext) :
    s.OnlyBay ((s.mapBay k f).handDemands k) k id where
  stable := by
    have hest : ((s.mapBay k f).handDemands k).est = s.est := rfl
    have hset : s.est.set k (s.est.get k) = s.est := PerBay.ext_get fun j => by
      rw [PerBay.get_set]; split
      next h => rw [h]
      next => rfl
    rw [handDemands_stable, mapBay_stable, hest, hset]; rfl
  arb := rfl
  steam := rfl
  dry := rfl
  others j hj := by simp [handDemands, hj, bay]
  air := by simp [handDemands, demanded, bay]
  notices q := by simp [handDemands]

/-- A kind is raised for the bay in the same event. -/
theorem OnlyBay.raise (h : s.OnlyBay t k id) (n : BayNotice) : s.OnlyBay (t.raiseBay n k) k (NoticeSet.addBay n k) where
  stable := by
    have hest : (t.raiseBay n k).est = t.est := by simp [raiseBay]
    rw [raiseBay_stable, h.stable, hest]
  arb := by rw [raiseBay_arb, h.arb]
  steam := by simp [raiseBay, h.steam]
  dry := by simpa [raiseBay] using h.dry
  others j hj := by simpa [raiseBay] using h.others j hj
  air := by simpa [raiseBay] using h.air
  notices q := by
    have hn := h.notices q
    simp only [id_eq, ite_self] at hn
    rw [raiseBay_notices, hn]

/-! ## A step's entry (R21 to R24) -/

theorem enterStep_no_step (fresh : Bool) (hd : (s.bay k).door = .shut) (hr : (s.bay k).currentStep = none) :
    s.enterStep k fresh = (s.mapBay k (BayContext.setRemaining fresh)).handDemands k := by
  have hd' : ((s.mapBay k (BayContext.setRemaining fresh)).bay k).door ≠ .opened := by
    simp [BayContext.setRemaining, hd]
  have hr' : ((s.mapBay k (BayContext.setRemaining fresh)).bay k).currentStep = none := by simp; exact hr
  unfold enterStep
  dsimp only
  rw [if_neg hd', hr']

/-- A reheat status that is not ON switches the reheater OFF, whatever the bay's step (R121). -/
theorem setReheat_mapBay {r : Reheat} (hr : r ≠ .on) (s : State) (k : Bay) (f : BayContext → BayContext) :
    (s.mapBay k f).setReheat k r = (s.setReheat k r).mapBay k f := by
  have hoff (u : State) : (u.mapArb (Arbiter.setReheat k r)).reheatReady k = false := by
    have h := setReheat_reheatOf_self u k r
    simp only [setReheat, refreshDraw, mapArb_arb, reheaterFollow_arb] at h
    have h' : (Arbiter.setReheat k r u.arb).reheatOf k = (u.arb.reheatOf k).map fun _ => r := h
    simp only [reheatReady, mapArb_arb, h']
    cases u.arb.reheatOf k <;> simp [hr]
  unfold setReheat reheaterFollow
  rw [hoff, hoff]
  rfl

/-- The state from which bay `k` enters a step: as it is, or with its entry withdrawn. -/
def Entering (s u : State) (k : Bay) : Prop := u = s ∨ u = s.withdraw k

theorem Entering.bay {u : State} (h : s.Entering u k) (j : Bay) : u.bay j = s.bay j := by
  obtain rfl | rfl := h
  · rfl
  · rfl

theorem Entering.letsGo {u v : State} {req : Option Entry} {raise : NoticeSet → NoticeSet} (h : s.Entering u k)
    (hl : u.LetsGo v k req raise) : s.LetsGo v k req raise := by
  obtain rfl | rfl := h
  · exact hl
  · obtain ⟨e, he⟩ := withdraw_eq s k
    exact hl.of_request ⟨_, e, he, fun j hj => by simp [hj]⟩

theorem withdraw_requests (s : State) (k : Bay) : (s.withdraw k).arb.requests.get k = none := by
  obtain ⟨e, he⟩ := withdraw_eq s k
  rw [he]; simp

theorem Entering.reqLeft {u : State} (h : s.Entering u k) : s.ReqLeft k (u.arb.requests.get k) := by
  obtain rfl | rfl := h
  · exact .inr (.inl rfl)
  · exact .inl (withdraw_requests s k)

/-- A carried-over grant has its reheat status judged again before the bay goes on (R23). -/
theorem carryOver_moves (s : State) (k : Bay) (r : StepRecord) (f : BayContext → BayContext) :
    ∃ w, Moves s w ∧ w.bay k = s.bay k ∧ w.arb.requests = s.arb.requests ∧ (∀ q, w.holds k q = s.holds k q) ∧
      (s.mapBay k f).carryOver k r = w.mapBay k f := by
  unfold carryOver
  split
  next before hb =>
    dsimp only
    split
    next => exact ⟨s, .refl, rfl, rfl, fun _ => rfl, rfl⟩
    next hne =>
      have hoff : carriedReheat r.boost before ≠ .on := by
        unfold carriedReheat at hne ⊢
        split
        next => split <;> simp_all
        next => simp
      have hsome : (s.arb.reheatOf k).isSome = true := by
        rw [mapBay_arb] at hb
        rw [hb]; rfl
      refine ⟨(s.setReheat k (carriedReheat r.boost before)).mapArb Arbiter.owe,
        (Move.moves (.reheatOff k _ hoff hsome)).trans (owe_moves _), ?_, ?_, ?_, ?_⟩
      · simp [bay]
      · simp [Arbiter.owe]
      · intro q
        cases q with
        | steam => simp [holds, Arbiter.holdsSteam, Arbiter.owe, setReheat, Arbiter.setReheat, refreshDraw]
        | dry =>
          have hA := slotHeldBy_of_bay (slotWith_bay k (carriedReheat r.boost before) s.arb.slotA) k
          have hB := slotHeldBy_of_bay (slotWith_bay k (carriedReheat r.boost before) s.arb.slotB) k
          simp [holds, Arbiter.holdsDry, Arbiter.owe, setReheat_slotA, setReheat_slotB, hA, hB]
      · rw [setReheat_mapBay hoff]; rfl
  next => exact ⟨s, .refl, rfl, rfl, fun _ => rfl, rfl⟩

theorem mapBay_mapBay (s : State) (k : Bay) (f g : BayContext → BayContext) :
    (s.mapBay k f).mapBay k g = s.mapBay k (g ∘ f) := by
  have h : (s.bays.modify k f).modify k g = s.bays.modify k (g ∘ f) := PerBay.ext_get fun j => by
    simp only [PerBay.get_modify]; split <;> rfl
  simp only [mapBay, h]

/-- What a bay must meet to enter a step once `f` has moved its context there. -/
structure ReadyToEnter (s u : State) (k : Bay) (f : BayContext → BayContext) : Prop where
  request   : BayLawful (s.arb.requests.get k) (s.bay k) → u.arb.requests.get k = none
  enterable : ∀ req, BayLawful req (s.bay k) → Enterable (f (s.bay k))
  unhalted  : ∀ req, BayLawful req (s.bay k) → BayHalts (s.bay k) → Unhalted (f (s.bay k))

/-- A bay that holds a grant has no entry to withdraw. -/
theorem Entering.moves {u : State} (hu : s.Entering u k)
    (h : BayLawful (s.arb.requests.get k) (s.bay k) → s.HoldersActive → s.arb.requests.get k = none) : Moves s u := by
  obtain rfl | rfl := hu
  · exact .refl
  · exact Move.moves (.dropEntry k h)

theorem HoldersActive.of_holds {q : Resource} (h : s.HoldersActive) (hq : s.holds k q = true) :
    (s.bay k).state = .active ∧ (s.bay k).currentKind.bind StepKind.resource = some q := by
  obtain ⟨hsteam, hdry, -⟩ := h
  cases q with
  | steam => obtain ⟨hs, hk⟩ := hsteam k hq; exact ⟨hs, by rw [hk]; rfl⟩
  | dry => obtain ⟨hs, hk⟩ := hdry k hq; exact ⟨hs, by rw [hk]; rfl⟩

/-- What the bay held before its entry was withdrawn it held already. -/
theorem Entering.holds {u : State} (hu : s.Entering u k) {q : Resource} (h : u.holds k q = true) : s.holds k q = true := by
  obtain rfl | rfl := hu
  · exact h
  · obtain ⟨e, he⟩ := withdraw_eq s k
    rw [he] at h
    cases q <;> exact h

/-- The resource of a step that a context has for its own. -/
theorem currentKind_resource {b c : BayContext} {r : StepRecord} {q : Resource} (hc : c.currentStep = some r)
    (hk : r.kind.resource = some q) (hb : b.currentStep = c.currentStep) : b.currentKind.bind StepKind.resource = some q := by
  rw [BayContext.currentKind, hb, hc]
  exact hk

section

variable {u : State} {f : BayContext → BayContext} (hu : s.Entering u k) (hr : s.ReadyToEnter u k f) (fresh : Bool)

include hu

theorem Entering.mapBay_bay (f : BayContext → BayContext) : (u.mapBay k f).bay k = f (s.bay k) := by simp [hu.bay]

include hr

/-- With the door open the bay is HELD before its step (R24). -/
theorem enterStep_opened_moves (hdoor : (f (s.bay k)).door = .opened) : Moves s ((u.mapBay k f).enterStep k fresh) := by
  have hb := hu.mapBay_bay f
  obtain ⟨hl, hbay⟩ := enterStep_open (u.mapBay k f) k fresh (by rw [hb]; exact hdoor)
  rw [hb] at hbay
  refine Move.moves (.letsGo k _ id (hu.letsGo hl.of_mapBay) hu.reqLeft (fun hlaw => ?_) fun hlaw hh => ?_)
  · rw [hbay, mapBay_arb, hr.request hlaw]
    exact (hr.enterable _ hlaw).lawful rfl rfl rfl (by simp [BayContext.goto]) (by simp [BayContext.goto])
      (by simp [BayContext.goto]) (by simp) (by simp [BayContext.goto])
      (by simp [BayContext.goto, BayContext.setRemaining, hdoor])
  · rw [hbay]
    exact (hr.unhalted _ hlaw hh).halts rfl rfl (.inr rfl)

section

variable (hdoor : (f (s.bay k)).door = .shut)

include hdoor

/-- A bay that may enter a step has one. -/
theorem enterStep_stepless_moves (hstep : (f (s.bay k)).currentStep = none) : Moves s ((u.mapBay k f).enterStep k fresh) := by
  have hb := hu.mapBay_bay f
  have hno {req : Option Entry} (hlaw : BayLawful req (s.bay k)) : False := by
    obtain ⟨r, h⟩ := (hr.enterable _ hlaw).currentStep
    rw [hstep] at h; cases h
  rw [enterStep_no_step fresh (by rw [hb]; exact hdoor) (by rw [hb]; exact hstep), mapBay_mapBay]
  refine (hu.moves fun hlaw _ => (hno hlaw).elim).trans
    (Move.moves (.onlyBay k id (mapBay_handDemands_onlyBay u k _) (.of_stable (by simp)) fun hlaw _ _ => ?_))
  rw [hu.bay] at hlaw
  exact (hno hlaw).elim

variable {r : StepRecord} (hstep : (f (s.bay k)).currentStep = some r)

include hstep

/-- A step without a resource runs at once (R21). -/
theorem enterStep_plain_moves (hk : r.kind.resource = none) : Moves s ((u.mapBay k f).enterStep k fresh) := by
  have hb := hu.mapBay_bay f
  obtain ⟨hl, hbay⟩ := enterStep_plain (u.mapBay k f) k fresh r (by rw [hb]; exact hdoor) (by rw [hb]; exact hstep) hk
  rw [hb] at hbay
  refine Move.moves (.letsGo k _ id (hu.letsGo hl.of_mapBay) hu.reqLeft (fun hlaw => ?_) fun hlaw hh => ?_)
  · rw [hbay, mapBay_arb, hr.request hlaw]
    exact (hr.enterable _ hlaw).lawful rfl rfl rfl (by simp [BayContext.goto]) (by simp [BayContext.goto])
      (by simp [BayContext.goto]) (by simp) (by simp [BayContext.goto, BayContext.setRemaining, hdoor])
      (by simp [BayContext.goto])
  · rw [hbay]
    exact (hr.unhalted _ hlaw hh).halts rfl rfl (.inl ⟨rfl, rfl⟩)

variable {q : Resource} (hk : r.kind.resource = some q)

include hk

/-- A step whose resource the bay does not hold waits for its grant (R22). -/
theorem enterStep_await_moves (hh : (u.mapBay k f).holds k q = false) : Moves s ((u.mapBay k f).enterStep k fresh) := by
  have hb := hu.mapBay_bay f
  obtain ⟨hl, hbay⟩ := enterStep_await (u.mapBay k f) k fresh r q (by rw [hb]; exact hdoor) (by rw [hb]; exact hstep) hk hh
  rw [hb] at hbay
  refine Move.moves (.letsGo k _ id (hu.letsGo hl.of_mapBay) (.inr (.inr ⟨q, _, rfl⟩)) (fun hlaw => ?_) fun hlaw hh => ?_)
  · rw [hbay]
    refine (hr.enterable _ hlaw).lawful rfl rfl rfl (by simp [BayContext.goto]) (by simp [BayContext.goto])
      (by simp [BayContext.goto]) ?_ (by simp [BayContext.goto, BayContext.setRemaining, hdoor])
      (by simp [BayContext.goto])
    rintro e ⟨⟩
    exact currentKind_resource hstep hk rfl
  · rw [hbay]
    exact (hr.unhalted _ hlaw hh).halts rfl rfl (.inr rfl)

/-- A grant that the bay holds is carried over to the step (R23). -/
theorem enterStep_carried_moves (hh : (u.mapBay k f).holds k q = true) : Moves s ((u.mapBay k f).enterStep k fresh) := by
  have hb := hu.mapBay_bay f
  have hholds : u.holds k q = true := by cases q <;> exact hh
  have hus : s.holds k q = true := hu.holds hholds
  rw [enterStep_carried (u.mapBay k f) k fresh r q (by rw [hb]; exact hdoor) (by rw [hb]; exact hstep) hk hh, mapBay_mapBay]
  obtain ⟨w, hw, hwbay, hwreq, hwholds, hcarry⟩ := carryOver_moves u k r (BayContext.setRemaining fresh ∘ f)
  rw [hcarry, activate, mapBay_mapBay]
  refine ((hu.moves fun hlaw ha => hlaw.no_request (by simp [(ha.of_holds hus).1])).trans hw).trans
    (Move.moves (.onlyBay k id (mapBay_handDemands_onlyBay w k _) (.of_stable (by simp)) fun hlaw ha _ => ?_))
  obtain ⟨hactive, hserves⟩ := ha.of_holds (q := q) (by rw [hwholds]; exact hholds)
  have hbay : (((w.mapBay k (BayContext.goto .active ∘ BayContext.setRemaining fresh ∘ f)).handDemands k).bay k) =
      ((f (s.bay k)).setRemaining fresh).goto .active := by
    simp [handDemands, hwbay, hu.bay]
  have hnone : w.arb.requests.get k = none := hlaw.no_request (by simp [hactive])
  rw [hwbay, hu.bay] at hlaw
  refine ⟨?_, fun hh => ?_, fun q' hq' => ?_⟩
  · rw [hbay, handDemands_arb, mapBay_arb, hnone]
    exact (hr.enterable _ hlaw).lawful rfl rfl rfl (by simp [BayContext.goto]) (by simp [BayContext.goto])
      (by simp [BayContext.goto]) (by simp) (by simp [BayContext.goto, BayContext.setRemaining, hdoor])
      (by simp [BayContext.goto])
  · rw [hbay]
    rw [hwbay, hu.bay] at hh
    exact (hr.unhalted _ hlaw hh).halts rfl rfl (.inl ⟨rfl, rfl⟩)
  · rw [hbay]
    exact ⟨rfl, (currentKind_resource hstep hk rfl).trans (hserves.symm.trans (ha.of_holds hq').2)⟩

end

/-- The entry of a step, by the door, the step's kind and the grant held (R21 to R24). -/
theorem enterStep_moves : Moves s ((u.mapBay k f).enterStep k fresh) := by
  cases hdoor : (f (s.bay k)).door
  case opened => exact enterStep_opened_moves hu hr fresh hdoor
  case shut =>
    cases hstep : (f (s.bay k)).currentStep
    case none => exact enterStep_stepless_moves hu hr fresh hdoor hstep
    case some r =>
      cases hk : r.kind.resource
      case none => exact enterStep_plain_moves hu hr fresh hdoor hstep hk
      case some q =>
        cases hh : (u.mapBay k f).holds k q
        case false => exact enterStep_await_moves hu hr fresh hdoor hstep hk hh
        case true => exact enterStep_carried_moves hu hr fresh hdoor hstep hk hh

end

end State
end Sys2Proof.Machine

/-!
PROOFS. The moves of a treatment: advance and finish, the bay commands, the doors, the bays' timers and their part of a scan.
-/

namespace Sys2Proof.Machine

/-- The bay is in a treatment: it has a program and is neither done with it nor halted. -/
def BayContext.treating (b : BayContext) : Prop := b.state ≠ .idle ∧ b.state ≠ .halted

theorem BayHalts.of_treating {b : BayContext} (h : BayHalts b) (ht : b.treating) : Unhalted b := h.unhalted ht.2 ht.1

namespace State

variable {s : State} {k : Bay}

/-! ## Advance and finish (R35, R36) -/

theorem finishBay_moves {u : State} {f : BayContext → BayContext} (hu : s.Entering u k) (hr : s.ReadyToEnter u k f) :
    Moves s ((u.mapBay k f).finishBay k) := by
  have hb : (u.mapBay k f).bay k = f (s.bay k) := by simp [hu.bay]
  have hbay := finishBay_bay (u.mapBay k f) k
  rw [hb] at hbay
  refine Move.moves (.letsGo k _ _ (hu.letsGo (finishBay_letsGo (u.mapBay k f) k).of_mapBay) hu.reqLeft (fun hlaw => ?_)
    fun hlaw hh => ?_)
  · rw [hbay, mapBay_arb, hr.request hlaw]
    exact (hr.enterable _ hlaw).lawful rfl rfl rfl (by simp [BayContext.finish, BayContext.goto])
      (by simp [BayContext.finish, BayContext.goto]) (by simp [BayContext.finish, BayContext.goto]) (by simp)
      (by simp [BayContext.finish, BayContext.goto]) (by simp [BayContext.finish, BayContext.goto])
  · rw [hbay]
    exact (hr.unhalted _ hlaw hh).halts rfl rfl (.inr rfl)

/-- The next step, if there is one. -/
theorem ReadyToEnter.next {u : State} {f : BayContext → BayContext} (hr : s.ReadyToEnter u k f)
    (h : (f (s.bay k)).stepIndex + 1 < (f (s.bay k)).stepCount) :
    s.ReadyToEnter u k fun b => { f b with stepIndex := (f b).stepIndex + 1 } where
  request := hr.request
  enterable req hlaw := by
    obtain ⟨⟨p, hp, hn, -, hl⟩, hsrc⟩ := hr.enterable req hlaw
    simp only [BayContext.stepCount, hp] at h
    exact ⟨⟨p, hp, hn, h, hl⟩, hsrc⟩
  unhalted req hlaw hh :=
    have h := hr.unhalted req hlaw hh
    ⟨h.purge, h.fault, h.bound⟩

theorem advance_moves {u : State} {f : BayContext → BayContext} (hu : s.Entering u k) (hr : s.ReadyToEnter u k f) :
    Moves s ((u.mapBay k f).advance k) := by
  have hb : (u.mapBay k f).bay k = f (s.bay k) := by simp [hu.bay]
  unfold advance
  rw [hb]
  split
  next h =>
    rw [mapBay_mapBay]
    exact (enterStep_moves hu (hr.next h) true).trans (raiseBay_moves ..)
  next => exact finishBay_moves hu hr

/-- A bay in a treatment is ready to enter a step from the context that it has. -/
theorem readyToEnter {f : BayContext → BayContext} (ht : (s.bay k).treating) (hw : (s.bay k).state ≠ .await)
    (hf : (f (s.bay k)).program = (s.bay k).program ∧ (f (s.bay k)).source = (s.bay k).source ∧
      (f (s.bay k)).stepIndex = (s.bay k).stepIndex)
    (hh : (f (s.bay k)).purgeRemaining = (s.bay k).purgeRemaining ∧ (f (s.bay k)).fault = (s.bay k).fault ∧
      (f (s.bay k)).overheatRun = (s.bay k).overheatRun) : s.ReadyToEnter s k f where
  request hlaw := hlaw.no_request hw
  enterable req hlaw := by
    obtain ⟨⟨p, hp⟩, hsrc⟩ := hlaw.enterable ht.1
    obtain ⟨hfp, hfs, hfi⟩ := hf
    exact ⟨⟨p, by rw [hfp, hfi]; exact hp⟩, by rw [hfs]; exact hsrc⟩
  unhalted req hlaw hhalts := by
    have h := hhalts.of_treating ht
    obtain ⟨hp, hfa, hrun⟩ := hh
    exact ⟨hp.trans h.purge, hfa.trans h.fault, by rw [hrun]; exact h.bound⟩

theorem advance_active_moves (h : (s.bay k).state = .active) : Moves s (s.advance k) := by
  have hr : s.ReadyToEnter s k id := readyToEnter (by simp [BayContext.treating, h]) (by simp [h]) ⟨rfl, rfl, rfl⟩ ⟨rfl, rfl, rfl⟩
  have hm := advance_moves (.inl rfl) hr
  rwa [mapBay_id] at hm

/-! ## The bay commands (R19, R20, R37 to R39) -/

theorem startBay_moves (h : (s.bay k).state = .loaded) : Moves s (s.startBay k) := by
  have hr : s.ReadyToEnter s k id := readyToEnter (by simp [BayContext.treating, h]) (by simp [h]) ⟨rfl, rfl, rfl⟩ ⟨rfl, rfl, rfl⟩
  have hm := enterStep_moves (.inl rfl) hr true
  rwa [mapBay_id] at hm

theorem skipBay_moves (h : (s.bay k).state.skippable = true) : Moves s (s.skipBay k) := by
  have ht : (s.bay k).treating := by
    unfold BayContext.treating; cases hs : (s.bay k).state <;> simp_all [BayState.skippable]
  have hr : s.ReadyToEnter (s.withdraw k) k id := {
    request := fun _ => withdraw_requests s k
    enterable := fun _ hlaw => hlaw.enterable ht.1
    unhalted := fun _ _ hh => hh.of_treating ht }
  have hm := advance_moves (.inr rfl) hr
  rwa [mapBay_id] at hm

theorem abortBay_moves (h : (s.bay k).state.abortable = true) : Moves s (s.abortBay k) := by
  have ht : (s.bay k).treating := by
    unfold BayContext.treating; cases hs : (s.bay k).state <;> simp_all [BayState.abortable]
  have hbay : (s.abortBay k).bay k = (s.bay k).abort := giveUp_bay s k (f := BayContext.abort)
  refine Move.moves (.letsGo k none id (giveUp_letsGo s k _) (.inl rfl) (fun _ => ?_) fun _ hh => ?_)
  · rw [hbay]
    exact { request := by simp [BayContext.abort, BayContext.goto], entry := by simp,
            idle := by simp [BayContext.abort, BayContext.goto], source := by simp [BayContext.abort],
            index := fun _ => rfl, record := by simp [BayContext.abort], shut := by simp [BayContext.abort, BayContext.goto],
            held := by simp [BayContext.abort, BayContext.goto] }
  · rw [hbay]
    exact (hh.of_treating ht).halts rfl rfl (.inr rfl)

/-- A bay that stands aside holds nothing. -/
theorem HoldersActive.not_holds (h : s.HoldersActive) (hs : (s.bay k).state ≠ .active) (q : Resource) : s.holds k q = false := by
  by_contra hq
  exact hs (h.of_holds (by simpa using hq)).1

theorem bayFollows_aside {t : State} (ha : s.HoldersActive) (hs : (s.bay k).state ≠ .active)
    (hlaws : BayLawful (t.arb.requests.get k) (t.bay k)) (hhalts : BayHalts (s.bay k) → BayHalts (t.bay k)) : s.BayFollows t k where
  laws := hlaws
  halts := hhalts
  holders q hq := by rw [ha.not_holds hs q] at hq; cases hq

theorem mapBay_handDemands_bay (s : State) (k : Bay) (f : BayContext → BayContext) :
    ((s.mapBay k f).handDemands k).bay k = f (s.bay k) := by simp [handDemands]

theorem clearBay_moves (h : (s.bay k).state.clearable = true) : Moves s (s.clearBay k) := by
  have hs : (s.bay k).state = .finished ∨ (s.bay k).state = .halted := by
    cases hs : (s.bay k).state <;> simp_all [BayState.clearable]
  have hactive : (s.bay k).state ≠ .active := by rcases hs with hs | hs <;> simp [hs]
  have hbay : (s.clearBay k).bay k = (s.bay k).clear := mapBay_handDemands_bay ..
  have harb : (s.clearBay k).arb = s.arb := rfl
  refine Move.moves (.onlyBay k id (mapBay_handDemands_onlyBay s k _) (.of_stable (by simp)) fun hlaw ha _ =>
    bayFollows_aside ha hactive ?_ fun hh => ?_)
  · rw [hbay, harb, hlaw.no_request (by rcases hs with hs | hs <;> simp [hs])]
    exact { request := by simp [BayContext.clear, BayContext.goto], entry := by simp,
            idle := by simp [BayContext.clear, BayContext.goto], source := by simp [BayContext.clear],
            index := fun _ => rfl, record := by simp [BayContext.clear], shut := by simp [BayContext.clear, BayContext.goto],
            held := by simp [BayContext.clear, BayContext.goto] }
  · rw [hbay]
    exact { purge := fun hp => absurd rfl hp, fault := fun hf => ⟨(hh.fault hf).1, .inr rfl⟩, run := fun hr => absurd rfl hr,
            bound := Nat.zero_le 5 }

/-! ## Loads (R19) -/

theorem clampInt_zero_le (hi x : Int) (h : 0 ≤ hi) : 0 ≤ clampInt 0 hi x ∧ clampInt 0 hi x ≤ hi := by
  rw [clampInt_eq h]; omega

theorem loadBay_onlyBay (s : State) (k : Bay) (p : Program) (src : Source) (water : Nat) :
    s.OnlyBay (s.loadBay k p src water) k id := by
  have h := mapBay_handDemands_onlyBay s k (BayContext.load p src)
  have hest : (s.loadBay k p src water).est = s.est.set k ((s.loadBay k p src water).est.get k) := by
    simp [loadBay, handDemands, PerBay.modify]
  refine ⟨?_, h.arb, h.steam, h.dry, h.others, h.air, h.notices⟩
  rw [← hest]
  rfl

theorem loadBay_bay (s : State) (k : Bay) (p : Program) (src : Source) (water : Nat) :
    (s.loadBay k p src water).bay k = (s.bay k).load p src := by simp [loadBay, handDemands]

theorem loadBay_beside (s : State) (k : Bay) (p : Program) (src : Source) (water : Nat) :
    s.Beside (s.loadBay k p src water) where
  pending := rfl
  estimates h j := by
    have hj := h j
    simp only [loadBay, handDemands, mapAir_est, mapEst_est, mapBay_est, PerBay.get_modify]
    split
    next => have hm := clampInt_zero_le 8000 water (by decide); simp [Params.maxM, Params.windowSize]; omega
    next => exact hj
  scanner := id
  ports := id
  library := .of_library rfl

theorem loadBay_moves {p : Program} {src : Source} (water : Nat) (h : (s.bay k).state = .idle)
    (hp : s.LibrarySound → p.normalize = p ∧ 1 ≤ p.steps.length ∧ p.steps.length ≤ 12) : Moves s (s.loadBay k p src water) := by
  refine Move.moves (.onlyBay k id (loadBay_onlyBay s k p src water) (loadBay_beside s k p src water) fun hlaw ha hlib =>
    bayFollows_aside ha (by simp [h]) ?_ fun _ => ?_)
  · have hreq : (s.loadBay k p src water).arb.requests = s.arb.requests := rfl
    obtain ⟨hn, hone, hlen⟩ := hp hlib
    rw [loadBay_bay, hreq, hlaw.no_request (by simp [h])]
    refine { request := by simp [BayContext.load, BayContext.goto], entry := by simp,
             idle := by simp [BayContext.load, BayContext.goto], source := by simp [BayContext.load],
             index := fun _ => rfl, record := ?_, shut := by simp [BayContext.load, BayContext.goto],
             held := by simp [BayContext.load, BayContext.goto] }
    rintro q ⟨⟩
    exact ⟨hn, hone, hlen⟩
  · rw [loadBay_bay]
    exact { purge := fun hp => absurd rfl hp, fault := fun hf => absurd rfl hf, run := fun hr => absurd rfl hr,
            bound := Nat.zero_le 5 }

theorem parseSteps_length {n : Nat} {bytes : List Byte} {l : List StepRecord} (h : parseSteps n bytes = some l) :
    l.length = n := by
  induction n, bytes using parseSteps.induct generalizing l with
  | case1 => simp_all [parseSteps]
  | case2 n kind fan flags d1 d0 t1 t0 air rest k more hmore hk ih =>
    simp only [parseSteps, hk, hmore, Option.some.injEq] at h
    rw [← h, List.length_cons, ih hmore]
  | case3 n kind fan flags d1 d0 t1 t0 air rest hno =>
    simp only [parseSteps] at h
    cases h
  | case4 => simp_all [parseSteps]

theorem parseProgram_length {bytes : List Byte} {p : Program} (h : parseProgram bytes = some p) :
    1 ≤ p.steps.length ∧ p.steps.length ≤ 12 := by
  unfold parseProgram at h
  split at h
  next limit r1 r0 count body =>
    split at h
    next hcount =>
      split at h
      next steps hsteps =>
        cases h
        obtain ⟨hone, htwelve, -⟩ := hcount
        simp only [parseSteps_length hsteps]
        exact ⟨hone, htwelve⟩
      next => cases h
    next => cases h
  next => cases h

theorem normalize_length (p : Program) : p.normalize.steps.length = p.steps.length := by simp [Program.normalize]

theorem lookup_sound {slot : Byte} {p : Program} (h : s.library.lookup slot = .ok p) (hl : s.LibrarySound) :
    p.normalize = p ∧ 1 ≤ p.steps.length ∧ p.steps.length ≤ 12 := by
  unfold Library.lookup at h
  split at h
  next => cases h
  next n _ =>
    split at h
    next => cases h
    next =>
      split at h
      next => cases h
      next q hq => cases h; exact hl.1 n p hq

theorem loadFromSlot_moves {p : Port} (slot : Byte) (water : Nat) (hp : s.Accepts p) : Moves s (s.loadFromSlot p slot water k) := by
  unfold loadFromSlot
  split
  next hidle =>
    split
    next program n hl _ =>
      exact (loadBay_moves water hidle fun hlib => lookup_sound hl hlib).trans (reply_moves _ hp)
    next => exact reply_moves _ hp
    next => exact reply_moves _ hp
  next => exact reply_moves _ hp

theorem loadInline_moves {p : Port} (water : Nat) (record : List Byte) (hp : s.Accepts p) :
    Moves s (s.loadInline p water record k) := by
  unfold loadInline
  split
  next program hparse =>
    refine whenState_moves hp id fun h => loadBay_moves water (by simpa using h) fun _ => ⟨program.normalize_normalize, ?_⟩
    rw [normalize_length]
    exact parseProgram_length hparse
  next => exact reply_moves _ hp

/-! ## Doors (R18, R40 to R42) -/

theorem setDoorInput_moves (k : Bay) (high : Bool) : Moves s (s.setDoorInput k high) :=
  Move.moves (.beside ⟨rfl, id, id, id, .of_library rfl⟩ rfl rfl rfl rfl rfl)

/-- A door event that holds no treatment changes the field and the demands alone. -/
theorem doorField_moves (d : Door) (hlaw : ∀ req, BayLawful req (s.bay k) → BayLawful req { s.bay k with door := d }) :
    Moves s ((s.mapBay k fun b => { b with door := d }).handDemands k) := by
  refine Move.moves (.onlyBay k id (mapBay_handDemands_onlyBay s k _) (.of_stable (by simp)) fun hl ha _ => ⟨?_, fun hh => ?_, ?_⟩)
  · rw [mapBay_handDemands_bay, handDemands_arb, mapBay_arb]; exact hlaw _ hl
  · rw [mapBay_handDemands_bay]; exact ⟨hh.purge, hh.fault, hh.run, hh.bound⟩
  · rw [mapBay_handDemands_bay]; exact fun q hq => ha.of_holds hq

theorem openDoor_moves (s : State) (k : Bay) : Moves s (s.openDoor k) := by
  unfold openDoor
  refine Relation.ReflTransGen.trans ?_ (raiseBay_moves .door k)
  have hbay : (s.mapBay k fun b => { b with door := .opened }).bay k = { s.bay k with door := .opened } := by simp
  rw [hbay]
  have hgives (h : (s.bay k).treating) :
      Moves s ((((s.mapBay k fun b => { b with door := .opened }).giveUp k).mapBay k (BayContext.goto .held)).handDemands k) := by
    have hheld := giveUp_bay (s.mapBay k fun b => { b with door := .opened }) k (f := BayContext.goto .held)
    rw [hbay] at hheld
    refine Move.moves (.letsGo k none id (giveUp_letsGo (s.mapBay k fun b => { b with door := .opened }) k
      (BayContext.goto .held)).of_mapBay (.inl rfl) (fun hlaw => ?_) fun hlaw hh => ?_)
    · rw [hheld]
      exact (hlaw.enterable h.1).lawful rfl rfl rfl (by simp [BayContext.goto]) (by simp [BayContext.goto])
        (by simp [BayContext.goto]) (by simp) (by simp [BayContext.goto]) (by simp [BayContext.goto])
    · rw [hheld]
      exact (hh.of_treating h).halts rfl rfl (.inr rfl)
  have hrest (h : (s.bay k).state ≠ .await ∧ (s.bay k).state ≠ .active) :
      Moves s ((s.mapBay k fun b => { b with door := .opened }).handDemands k) :=
    doorField_moves .opened fun req hlaw =>
      { hlaw with shut := fun hst => (hst.elim h.1 h.2).elim, held := fun _ => rfl }
  cases hst : (s.bay k).state
  case await => exact hgives (by simp [BayContext.treating, hst])
  case active => exact hgives (by simp [BayContext.treating, hst])
  all_goals exact hrest (by simp [hst])

theorem closeDoor_moves (s : State) (k : Bay) : Moves s (s.closeDoor k) := by
  unfold closeDoor
  refine Relation.ReflTransGen.trans ?_ (raiseBay_moves .door k)
  have hbay : (s.mapBay k fun b => { b with door := .shut }).bay k = { s.bay k with door := .shut } := by simp
  rw [hbay]
  have hrest (h : (s.bay k).state ≠ .held) : Moves s ((s.mapBay k fun b => { b with door := .shut }).handDemands k) :=
    doorField_moves .shut fun req hlaw => { hlaw with shut := fun _ => rfl, held := fun hst => absurd hst h }
  cases hst : (s.bay k).state
  case held =>
    exact enterStep_moves (.inl rfl) (readyToEnter (f := fun b => { b with door := .shut }) (by simp [BayContext.treating, hst])
      (by simp [hst]) ⟨rfl, rfl, rfl⟩ ⟨rfl, rfl, rfl⟩) false
  all_goals exact hrest (by simp [hst])

theorem doorOpening_moves (s : State) (k : Bay) : Moves s (s.doorOpening k) := by
  unfold doorOpening
  split
  next => exact ((setDoorInput_moves k true).trans (openDoor_moves _ k)).trans (settle_moves _)
  next => exact .refl

theorem doorClosing_moves (s : State) (k : Bay) : Moves s (s.doorClosing k) := by
  unfold doorClosing
  split
  next => exact ((setDoorInput_moves k false).trans (closeDoor_moves _ k)).trans (settle_moves _)
  next => exact .refl

/-! ## The bays' timers (R26, R31, R45) -/

theorem waitTimeout_moves (s : State) (k : Bay) : Moves s (s.waitTimeout k) := by
  unfold waitTimeout
  split
  next h =>
    have hs : (s.bay k).state = .await := by simp [BayContext.waitDue] at h; exact h.1
    exact (haltBay_moves _ (by simp [hs])).trans (settle_moves _)
  next => exact .refl

theorem judgeUnderdry_eq (m : Int) (b : BayContext) : ∃ mark, b.judgeUnderdry m = { b with underdry := mark } := by
  unfold BayContext.judgeUnderdry
  split
  next => split <;> [exact ⟨true, rfl⟩; exact ⟨b.underdry, rfl⟩]
  next => exact ⟨b.underdry, rfl⟩

theorem endOnLimit_moves (h : (s.bay k).state = .active) : Moves s (s.endOnLimit k) := by
  obtain ⟨mark, hm⟩ := judgeUnderdry_eq (s.est.get k).m (s.bay k)
  exact advance_moves (.inl rfl) (readyToEnter (by simp [BayContext.treating, h]) (by simp [h]) (by rw [hm]; exact ⟨rfl, rfl, rfl⟩)
    (by rw [hm]; exact ⟨rfl, rfl, rfl⟩))

theorem stepEndsOnLimit_moves (s : State) (k : Bay) : Moves s (s.stepEndsOnLimit k) := by
  unfold stepEndsOnLimit
  split
  next h =>
    have hs : (s.bay k).state = .active := by simp [BayContext.limitDue] at h; exact h.1
    exact (endOnLimit_moves hs).trans (settle_moves _)
  next => exact .refl

theorem purgeEnd_moves (s : State) (k : Bay) : Moves s (s.purgeEnd k) := by
  unfold purgeEnd
  split
  next h =>
    have hs : (s.bay k).state = .halted := by simp [BayContext.purgeDue] at h; exact h.1
    refine Move.moves (.onlyBay k id (mapBay_handDemands_onlyBay s k _) (.of_stable (by simp)) fun hl ha _ =>
      bayFollows_aside ha (by simp [hs]) ?_ fun hh => ?_)
    · rw [endPurge, mapBay_handDemands_bay, handDemands_arb, mapBay_arb]
      exact ⟨hl.request, hl.entry, hl.idle, hl.source, hl.index, hl.record, hl.shut, hl.held⟩
    · rw [endPurge, mapBay_handDemands_bay]
      exact ⟨fun hp => absurd rfl hp, hh.fault, hh.run, hh.bound⟩
  next => exact .refl

/-! ## The bay's part of a scan (R32 to R34, R44, R46) -/

theorem stallReport_moves (s : State) (k : Bay) : Moves s (s.stallReport k) := by
  unfold stallReport
  split
  next h => exact haltBay_moves _ (by simp [h])
  next => exact .refl

theorem mapBay_contexts {f : BayContext → BayContext}
    (h : ContextFollows (s.arb.requests.get k) (s.bay k) (f (s.bay k))) : Moves s (s.mapBay k f) :=
  Move.moves (.contexts (s.bays.modify k f) fun j => by
    rw [PerBay.get_modify]
    split
    next hj => rw [hj]; exact h
    next => exact ⟨rfl, rfl, rfl, rfl, id, id⟩)

/-- The overheat run of a bay that does not halt on it. -/
theorem overheatUpdate_follows {req : Option Entry} {b : BayContext} (faulted : Bool) (inlet : Int) (hs : b.state = .active)
    (h : (b.overheatUpdate faulted inlet).overheatRun < Params.overheatScans) :
    ContextFollows req b (b.overheatUpdate faulted inlet) where
  state := rfl
  kind := rfl
  fan := rfl
  vent := rfl
  laws hl := ⟨hl.request, hl.entry, hl.idle, hl.source, hl.index, hl.record, hl.shut, hl.held⟩
  halts hh := ⟨hh.purge, hh.fault, fun _ => hs, Nat.le_of_lt h⟩

theorem scanBay_moves (s : State) (k : Bay) : Moves s (s.scanBay k) := by
  unfold scanBay
  split
  next hs =>
    split
    next => exact haltBay_moves _ (by simp [hs])
    next =>
      dsimp only
      split
      next => exact haltBay_mapBay_moves _ (by simp [hs]) ⟨rfl, rfl, rfl⟩
      next hrun =>
        have hm := mapBay_contexts (overheatUpdate_follows (req := s.arb.requests.get k)
          (s.chan (bayChannel k 0)).faulted (s.chan (bayChannel k 0)).value hs (by simpa using hrun))
        split
        next => exact hm.trans (advance_active_moves (by simp [BayContext.overheatUpdate, hs]))
        next => exact hm
  next => exact .refl

end State
end Sys2Proof.Machine

/-!
PROOFS. The moves of the blocks: ports, library, scanner, estimators, steam unit, drying circuit, water inventory, arbiter.
-/

namespace Sys2Proof.Machine

namespace State

variable {s : State} {k : Bay}

/-! ## Ports (R170, R171) and inputs -/

theorem endEmpty_moves (p : Port) : Moves s (s.mapPort p PortRec.endEmpty) :=
  mapPort_moves (by unfold PortRec.endEmpty; split <;> simp_all; split <;> simp)

theorem startWrite_moves (p : Port) : Moves s (s.mapPort p PortRec.startWrite) :=
  mapPort_moves (by unfold PortRec.startWrite; split <;> simp_all)

theorem mapInputs_moves (f : Inputs → Inputs) : Moves s (s.mapInputs f) :=
  Move.moves (.beside ⟨rfl, id, id, id, .of_library rfl⟩ rfl rfl rfl rfl rfl)

/-! ## The library (R6 to R12) -/

theorem normalized_set {slots : Vector (Option Program) 16} {n : Fin 16} {record : Option Program} {P : Program → Prop}
    (h : ∀ m : Fin 16, ∀ p ∈ slots[m], P p) (hr : ∀ p ∈ record, P p) (m : Fin 16) : ∀ p ∈ (slots.set n record)[m], P p := by
  by_cases hm : m = n
  · subst hm; simpa using hr
  · have hne : n.val ≠ m.val := fun hv => hm (Fin.ext hv.symm)
    simpa [Vector.getElem_set, hne] using h m

/-- The library alone changes, and with it whether the service port is PENDING. -/
theorem mapLibrary_moves {l : Library} (hidle : l.op = .idle ↔ s.library.op = .idle)
    (hl : s.LibrarySound → ({ s with library := l } : State).LibrarySound) : Moves s { s with library := l } :=
  Move.moves (.beside ⟨rfl, id, id, fun ⟨hs, hb⟩ => ⟨hs.trans (not_congr hidle).symm, hb⟩, hl⟩ rfl rfl rfl rfl rfl)

/-- An operation that begins is sound where the slots whose erasing it begins hold nothing and a record in hand is normalized. -/
theorem beginLibrary_moves {f : Library → Library} (hop : (f s.library).op ≠ .idle)
    (hl : s.LibrarySound → (s.mapLibrary f).LibrarySound) : Moves s (s.beginLibrary f) :=
  Move.moves (.beside ⟨rfl, id, id, fun ⟨_, hb⟩ => ⟨iff_of_true rfl hop, hb⟩, fun h => hl h⟩ rfl rfl rfl rfl rfl)

theorem startWrite_sound (n : Fin 16) {record : Program}
    (hr : record.normalize = record ∧ 1 ≤ record.steps.length ∧ record.steps.length ≤ 12) (h : s.LibrarySound) :
    (s.mapLibrary (Library.startWrite n record)).LibrarySound := by
  obtain ⟨hslots, -, -⟩ := h
  refine ⟨normalized_set (n := n) (record := none) hslots (by simp), ?_, fun m hm => ?_⟩
  · rintro p ⟨⟩; exact hr
  · have hmn : m = n := by simpa [erasingBegun, Library.startWrite] using hm
    subst hmn
    simp [Library.startWrite, Library.emptySlot]

theorem startErase_sound (n : Fin 16) (h : s.LibrarySound) : (s.mapLibrary (Library.startErase n)).LibrarySound := by
  obtain ⟨hslots, -, -⟩ := h
  refine ⟨normalized_set (n := n) (record := none) hslots (by simp), by simp [writtenRecord, Library.startErase], fun m hm => ?_⟩
  have hmn : m = n := by simpa [erasingBegun, Library.startErase] using hm
  subst hmn
  simp [Library.startErase, Library.emptySlot]

/-- ERASE_LIBRARY erases the slots in order: those below the one it begins with are empty already. -/
theorem eraseFrom_sound (n : Fin 16) (h : s.LibrarySound) (hbelow : ∀ m : Fin 16, m < n → s.library.slots[m] = none) :
    (s.mapLibrary (Library.eraseFrom n)).LibrarySound := by
  obtain ⟨hslots, -, -⟩ := h
  refine ⟨normalized_set (n := n) (record := none) hslots (by simp), by simp [writtenRecord, Library.eraseFrom], fun m hm => ?_⟩
  have hmn : m ≤ n := by simpa [erasingBegun, Library.eraseFrom] using hm
  rcases lt_or_eq_of_le hmn with hlt | heq
  · have hne : n.val ≠ m.val := by have := Fin.lt_def.mp hlt; omega
    simpa [Library.eraseFrom, Library.emptySlot, Vector.getElem_set, hne] using hbelow m hlt
  · subst heq
    simp [Library.eraseFrom, Library.emptySlot]

theorem complete_sound (h : s.LibrarySound) : (s.mapLibrary Library.complete).LibrarySound := by
  obtain ⟨hslots, hwritten, -⟩ := h
  have hop : s.library.complete.op = .idle := by unfold Library.complete; split <;> rfl
  refine ⟨?_, by simp [writtenRecord, hop], by simp [erasingBegun, hop]⟩
  rw [mapLibrary_library]
  unfold Library.complete
  split
  next n ph record hw => exact normalized_set hslots (by rintro p ⟨⟩; exact hwritten record (by simp [writtenRecord, hw]))
  next => exact hslots
  next => exact hslots
  next => exact hslots

theorem nextPhase_sound (h : s.LibrarySound) : (s.mapLibrary Library.nextPhase).LibrarySound := by
  have hsame (t : State) (hslots : t.library.slots = s.library.slots) (hw : t.writtenRecord = s.writtenRecord)
      (he : ∀ n, t.erasingBegun n = s.erasingBegun n) : t.LibrarySound := by
    unfold LibrarySound
    simp only [hslots, hw, he]
    exact h
  cases hop : s.library.op with
  | idle => exact hsame _ (by simp [Library.nextPhase, hop]) (by simp [writtenRecord, Library.nextPhase, hop]) (by simp [erasingBegun, Library.nextPhase, hop])
  | writing n ph record =>
    cases ph <;> exact hsame _ (by simp [Library.nextPhase, hop]) (by simp [writtenRecord, Library.nextPhase, hop])
      (by simp [erasingBegun, Library.nextPhase, hop])
  | erasing n => exact hsame _ (by simp [Library.nextPhase, hop]) (by simp [writtenRecord, Library.nextPhase, hop]) (by simp [erasingBegun, Library.nextPhase, hop])
  | erasingAll n =>
    by_cases hn : n.val + 1 < 16
    · have heq : s.mapLibrary Library.nextPhase = s.mapLibrary (Library.eraseFrom ⟨n.val + 1, hn⟩) := by
        simp [mapLibrary, Library.nextPhase, hop, hn]
      rw [heq]
      refine eraseFrom_sound _ h fun m hm => h.2.2 m ?_
      have hm' : m ≤ n := by rw [Fin.lt_def] at hm; rw [Fin.le_def]; simp at hm; omega
      simpa [erasingBegun, hop] using hm'
    · exact hsame _ (by simp [Library.nextPhase, hop, hn]) (by simp [writtenRecord, Library.nextPhase, hop, hn])
        (by simp [erasingBegun, Library.nextPhase, hop, hn])

theorem nextPhase_idle (l : Library) : l.nextPhase.op = .idle ↔ l.op = .idle := by
  unfold Library.nextPhase
  split <;> simp_all
  split <;> simp_all [Library.eraseFrom]

theorem completeLibrary_moves (s : State) : Moves s s.completeLibrary := by
  have hop : s.library.complete.op = .idle := by unfold Library.complete; split <;> rfl
  exact Move.moves (.beside ⟨rfl, id, id, fun ⟨_, hb⟩ => ⟨iff_of_false (by simp [completeLibrary, reply, mapPort, raisePlant, PortRec.answer])
    (by simpa [completeLibrary, raisePlant, reply, mapPort, mapLibrary] using hop), hb⟩, fun h => complete_sound h⟩ rfl rfl rfl rfl rfl)

theorem libraryPhaseEnd_moves (s : State) : Moves s s.libraryPhaseEnd := by
  unfold libraryPhaseEnd
  split
  next => exact completeLibrary_moves s
  next => exact mapLibrary_moves (nextPhase_idle _) nextPhase_sound

theorem libraryCompletion_moves (s : State) : Moves s s.libraryCompletion := by
  unfold libraryCompletion
  split
  next => exact completeLibrary_moves s
  next => exact .refl

theorem takeWrite_moves {p : Port} (slot : Byte) (record : List Byte) (hp : s.Accepts p) : Moves s (s.takeWrite p slot record) := by
  unfold takeWrite
  split
  next n program hn hparse =>
    refine beginLibrary_moves (by simp [Library.startWrite]) (startWrite_sound n ⟨program.normalize_normalize, ?_⟩)
    rw [normalize_length]
    exact parseProgram_length hparse
  next => exact reply_moves _ hp

theorem takeErase_moves {p : Port} (slot : Byte) (hp : s.Accepts p) : Moves s (s.takeErase p slot) := by
  unfold takeErase
  split
  next n _ => exact beginLibrary_moves (by simp [Library.startErase]) (startErase_sound n)
  next => exact reply_moves _ hp

theorem eraseLibrary_moves (s : State) : Moves s (s.beginLibrary (Library.eraseFrom 0)) :=
  beginLibrary_moves (by simp [Library.eraseFrom]) fun h => eraseFrom_sound 0 h fun m hm => absurd hm (Fin.not_lt_zero m)

/-! ## The scanner (R131 to R139) and the estimators (R143 to R152) -/

/-- The laws of one channel (07, Scanner State). -/
structure ChannelLawful (n : ChannelNo) (c : Channel) : Prop where
  run   : c.run ≤ 2
  trim  : -Params.trimLimit ≤ c.trim ∧ c.trim ≤ Params.trimLimit
  value : scaleCode (classOf n) 0 ≤ c.value ∧ c.value ≤ scaleCode (classOf n) 4095

theorem scannerSound_iff : s.ScannerSound ↔
    s.scan.count ≤ 65535 ∧ s.scan.phase ≤ Params.scanPeriod ∧ ∀ n : ChannelNo, ChannelLawful n s.scan.channels[n] := by
  constructor
  · rintro ⟨hc, hp, h⟩
    exact ⟨hc, hp, fun n => have ⟨hr, hlo, hhi, hv⟩ := h n; ⟨hr, ⟨hlo, hhi⟩, hv⟩⟩
  · rintro ⟨hc, hp, h⟩
    exact ⟨hc, hp, fun n => ⟨(h n).run, (h n).trim.1, (h n).trim.2, (h n).value⟩⟩

theorem mapScan_moves {f : Scanner → Scanner} (h : s.ScannerSound → (s.mapScan f).ScannerSound) : Moves s (s.mapScan f) :=
  Move.moves (.beside ⟨rfl, id, h, id, .of_library rfl⟩ rfl rfl rfl rfl rfl)

theorem scaleCode_mono (c : ChannelClass) {t u : Int} (h : t ≤ u) : scaleCode c t ≤ scaleCode c u := by
  cases c <;> simp only [scaleCode] <;> omega

theorem faultUpdate_run_le (faulted rail : Bool) {run : Nat} (h : run ≤ 2) : (faultUpdate faulted run rail).2 ≤ 2 := by
  unfold faultUpdate Params.faultScans
  split
  · simp
  · split
    · simp
    · simp; omega

theorem ChannelLawful.judge {n : ChannelNo} {c : Channel} (code : Code) (h : ChannelLawful n c) :
    ChannelLawful n (c.judge (classOf n) code) where
  run := faultUpdate_run_le _ _ h.run
  trim := h.trim
  value := by
    simp only [Channel.judge]
    split
    next => exact h.value
    next =>
      have ht : 0 ≤ trimmedCode code c.latched ∧ trimmedCode code c.latched ≤ 4095 := clampInt_zero_le 4095 _ (by decide)
      exact ⟨scaleCode_mono _ ht.1, scaleCode_mono _ ht.2⟩

theorem ChannelLawful.complete {n : ChannelNo} {c : Channel} (h : ChannelLawful n c) : ChannelLawful n (c.complete (classOf n)) := by
  unfold Channel.complete
  split
  next code _ => exact h.judge code
  next => exact h

theorem setChannel_sound {n : ChannelNo} {f : Channel → Channel} (hf : ∀ c, ChannelLawful n c → ChannelLawful n (f c))
    (h : s.ScannerSound) : (s.mapScan (Scanner.setChannel n f)).ScannerSound := by
  rw [scannerSound_iff] at h ⊢
  obtain ⟨hc, hp, hch⟩ := h
  refine ⟨hc, hp, fun m => ?_⟩
  rw [mapScan_scan, Scanner.setChannel_get]
  split
  next hm => subst hm; exact hf _ (hch m)
  next => exact hch m

theorem setTrim_sound (n : ChannelNo) (trim : Byte) (h : s.ScannerSound) : (s.mapScan (Scanner.setTrim n trim)).ScannerSound := by
  refine setChannel_sound (fun c hc => ⟨hc.run, ?_, hc.value⟩) h
  simp only [clampInt_eq (show -Params.trimLimit ≤ Params.trimLimit by decide), Params.trimLimit]
  omega

theorem inFlight_sound (n : ChannelNo) (code : Code) (h : s.ScannerSound) :
    (s.mapScan (Scanner.setChannel n fun c => { c with inFlight := some code })).ScannerSound :=
  setChannel_sound (fun _ hc => ⟨hc.run, hc.trim, hc.value⟩) h

theorem start_sound (h : s.ScannerSound) : (s.mapScan Scanner.start).ScannerSound := by
  rw [scannerSound_iff] at h ⊢
  obtain ⟨hc, -, hch⟩ := h
  refine ⟨hc, by simp [Scanner.start], fun m => ?_⟩
  have hm : (s.mapScan Scanner.start).scan.channels[m] = s.scan.channels[m].latch := by simp [Scanner.start]
  rw [hm]
  exact ⟨(hch m).run, (hch m).trim, (hch m).value⟩

theorem scanTick_sound (h : s.ScannerSound) : (s.mapScan Scanner.tick).ScannerSound := by
  rw [scannerSound_iff] at h ⊢
  obtain ⟨hc, -, hch⟩ := h
  exact ⟨hc, Nat.min_le_left .., hch⟩

theorem scanComplete_sound (h : s.ScannerSound) : (s.mapScan Scanner.complete).ScannerSound := by
  rw [scannerSound_iff] at h ⊢
  obtain ⟨hc, hp, hch⟩ := h
  refine ⟨?_, hp, fun m => ?_⟩
  · simp only [mapScan_scan, Scanner.complete, Scanner.nextCount]
    split <;> omega
  · rw [mapScan_scan, Scanner.complete_get]
    exact (hch m).complete

theorem endLast_sound (code : Code) (h : s.ScannerSound) : (s.mapScan (Scanner.endLast code)).ScannerSound := by
  have heq : s.mapScan (Scanner.endLast code) =
      (s.mapScan (Scanner.setChannel condensateChannel fun c => { c with inFlight := some code })).mapScan Scanner.complete := by
    simp only [mapScan, Scanner.endLast]
  rw [heq]
  exact scanComplete_sound (inFlight_sound condensateChannel code h)

theorem scanStart_moves (s : State) : Moves s s.scanStart := by
  unfold scanStart
  split
  next => exact mapScan_moves start_sound
  next => exact .refl

theorem takeTrim_moves {p : Port} (channel trim : Byte) (hp : s.Accepts p) : Moves s (s.takeTrim p channel trim) := by
  unfold takeTrim
  split
  next n _ => exact (mapScan_moves (setTrim_sound n trim)).trans (reply_moves _ (by cases p <;> exact hp))
  next => exact reply_moves _ hp

theorem take_sound {e : Estimator} (w : Int) (hw : e.window.length ≤ Params.windowSize) :
    0 ≤ (e.take w).m ∧ (e.take w).m ≤ Params.maxM ∧ (e.take w).window.length ≤ Params.windowSize ∧
      ((e.take w).valid = true ↔ (e.take w).window ≠ []) := by
  have hm : 0 ≤ clampInt 0 Params.maxM (e.m - w) ∧ clampInt 0 Params.maxM (e.m - w) ≤ Params.maxM :=
    clampInt_zero_le _ _ (by decide)
  refine ⟨hm.1, hm.2, ?_, by simp [Estimator.take]⟩
  simp only [Estimator.take, List.length_append, List.length_singleton]
  unfold Params.windowSize at hw ⊢
  split
  · rw [List.length_drop]; omega
  · omega

theorem scanEstimator_moves (s : State) (k : Bay) : Moves s (s.scanEstimator k) := by
  have hmap (f : Estimator → Estimator)
      (hf : ∀ e : Estimator, 0 ≤ e.m ∧ e.m ≤ Params.maxM ∧ e.window.length ≤ Params.windowSize ∧ (e.valid = true ↔ e.window ≠ []) →
        0 ≤ (f e).m ∧ (f e).m ≤ Params.maxM ∧ (f e).window.length ≤ Params.windowSize ∧ ((f e).valid = true ↔ (f e).window ≠ [])) :
      Moves s (s.mapEst k f) := by
    refine Move.moves (.beside ⟨rfl, fun h j => ?_, id, id, .of_library rfl⟩ rfl rfl rfl rfl rfl)
    rw [mapEst_est, PerBay.get_modify]
    split
    next => exact hf _ (h j)
    next => exact h j
  unfold scanEstimator
  split
  next => exact hmap _ fun e he => take_sound _ he.2.2.1
  next => exact hmap _ fun e he => ⟨he.1, he.2.1, by simp [Estimator.refuse], by simp [Estimator.refuse]⟩

end State
end Sys2Proof.Machine

/-!
PROOFS. The moves of the plant's blocks: steam unit, drying circuit, water inventory, and the commands of the arbiter.
-/

namespace Sys2Proof.Machine

/-! ## The steam unit's own events keep its laws (R93 to R104, R109) -/

namespace SteamLawful

variable {row : Option Bay} {u : SteamUnit} {h : Bay}

/-- A unit that is not in a state with a holder has the heater off and every valve closed. -/
theorem at_rest (hl : SteamLawful row u) (hg : ¬(u.gen = .heating ∨ u.gen = .ready ∨ u.gen = .delivering)) :
    row = none ∧ u.heater = false ∧ ∀ k : Bay, u.valves.get k = false := by
  refine ⟨?_, ?_, fun k => ?_⟩
  · simpa using fun hr => hg (hl.holder.mp hr)
  · simpa using fun hh => hg (hl.heater hh)
  · simpa using fun hv => hg (.inr (.inr (hl.valves k hv).2))

theorem tick (hl : SteamLawful row u) : SteamLawful row u.tick where
  holder := hl.holder
  heater := hl.heater
  valves := hl.valves
  warm := by
    have hw := hl.warm
    simp only [SteamUnit.tick]
    split <;> simpa using hw
  fill hg := by simp [SteamUnit.tick, hl.fill hg]
  dryFire hh := by
    have hoff : u.heater = false := hh
    simp [SteamUnit.tick, hoff]

theorem startFill (hl : SteamLawful row u) : SteamLawful row u.startFill := by
  unfold SteamUnit.startFill
  split
  next hf => exact ⟨hl.holder, hl.heater, hl.valves, hl.warm, fun hg => absurd hg hf.2, hl.dryFire⟩
  next => exact hl

theorem lowGoesDry (hl : SteamLawful row u) : SteamLawful row u.lowGoesDry := by
  unfold SteamUnit.lowGoesDry
  split
  next => exact hl
  next => exact startFill ⟨hl.holder, hl.heater, hl.valves, hl.warm, hl.fill, hl.dryFire⟩

theorem lowGoesWet (hl : SteamLawful row u) : SteamLawful row u.lowGoesWet := by
  unfold SteamUnit.lowGoesWet
  split
  next => exact hl
  next => exact ⟨hl.holder, hl.heater, hl.valves, hl.warm, hl.fill, fun _ => rfl⟩

theorem highGoesWet (hl : SteamLawful row u) : SteamLawful row u.highGoesWet := by
  unfold SteamUnit.highGoesWet
  split
  next => exact hl
  next => exact ⟨hl.holder, hl.heater, hl.valves, hl.warm, fun _ => rfl, hl.dryFire⟩

theorem highGoesDry (hl : SteamLawful row u) : SteamLawful row u.highGoesDry := by
  unfold SteamUnit.highGoesDry
  split
  next => exact hl
  next => exact ⟨hl.holder, hl.heater, hl.valves, hl.warm, hl.fill, hl.dryFire⟩

theorem clearTrip (hl : SteamLawful row u) (hg : u.gen = .tripped) : SteamLawful row u.clearTrip := by
  obtain ⟨hrow, hheater, hvalves⟩ := hl.at_rest (by simp [hg])
  have hoff : SteamLawful row { u with gen := .off } := {
    holder := by simp [hrow], heater := by simp [hheater], valves := by simp [hvalves]
    warm := by simpa [hg] using hl.warm
    fill := by simp
    dryFire := hl.dryFire }
  unfold SteamUnit.clearTrip
  split
  next => exact hoff.startFill
  next => exact hoff

theorem warmHoldExpiry (hl : SteamLawful row u) (hg : u.gen = .warmHold) :
    SteamLawful row { u with gen := .off, warmHold := none } := by
  obtain ⟨hrow, hheater, hvalves⟩ := hl.at_rest (by simp [hg])
  exact { holder := by simp [hrow], heater := by simp [hheater], valves := by simp [hvalves], warm := by simp
          fill := by simp, dryFire := hl.dryFire }

theorem clearDwell (hl : SteamLawful row u) : SteamLawful row { u with dwellBay := none, dwellRemaining := 0 } :=
  ⟨hl.holder, hl.heater, hl.valves, hl.warm, hl.fill, hl.dryFire⟩

theorem tryDeliver (hl : SteamLawful (some h) u) : SteamLawful (some h) (u.tryDeliver h) := by
  unfold SteamUnit.tryDeliver
  split
  next hr =>
    refine { holder := by simp, heater := by simp, valves := fun k hk => ?_, warm := by simpa [hr.1] using hl.warm
             fill := by simp, dryFire := hl.dryFire }
    by_cases hkh : k = h
    · simp [hkh]
    · have hv : u.valves.get k = true := by simpa [hkh] using hk
      simpa [hr.1] using hl.valves k hv
  next => exact hl

theorem modulate (hl : SteamLawful (some h) u) (hg : u.gen = .delivering) (bad : Bool) (rh target : Int) :
    SteamLawful (some h) (u.modulate h bad rh target) := by
  rw [SteamUnit.modulate_eq]
  refine ⟨hl.holder, hl.heater, fun k hk => ⟨?_, hg⟩, hl.warm, hl.fill, hl.dryFire⟩
  by_cases hkh : k = h
  · rw [hkh]
  · exact (hl.valves k (by simpa [hkh] using hk)).1

theorem advance (hl : SteamLawful (some h) u) (boiler : Int) : SteamLawful (some h) (u.advance h boiler) := by
  have hto {g : GenState} (hg : u.gen = .heating ∨ u.gen = .ready) (hn : g = .heating ∨ g = .ready) :
      SteamLawful (some h) { u with gen := g } := {
    holder := by rcases hn with hn | hn <;> simp [hn]
    heater := fun _ => by rcases hn with hn | hn <;> simp [hn]
    valves := fun k hk => absurd (hl.valves k hk).2 (by rcases hg with hg | hg <;> simp [hg])
    warm := by have hw := hl.warm; rcases hg with hg | hg <;> rcases hn with hn | hn <;> simpa [hg, hn] using hw
    fill := fun ht => by rcases hn with hn | hn <;> rw [hn] at ht <;> cases ht
    dryFire := hl.dryFire }
  unfold SteamUnit.advance
  split
  next hg =>
    split
    next => exact (hto (.inl hg) (.inr rfl)).tryDeliver
    next => exact hl
  next hg =>
    split
    next => exact hto (.inr hg) (.inl rfl)
    next => exact hl
  all_goals exact hl

theorem switchHeater (hl : SteamLawful row u) (on : Bool)
    (hg : u.gen = .heating ∨ u.gen = .ready ∨ u.gen = .delivering) : SteamLawful row (u.switchHeater on) where
  holder := hl.holder
  heater _ := hg
  valves := hl.valves
  warm := hl.warm
  fill := hl.fill
  dryFire hh := by
    have hon : on = false := hh
    simp [SteamUnit.switchHeater, hon]

theorem regulate (hl : SteamLawful row u) (boiler : Int) : SteamLawful row (u.regulate boiler) := by
  have hon (hg : u.gen = .heating ∨ u.gen = .ready ∨ u.gen = .delivering) :
      SteamLawful row (if boiler < Params.heaterOnBelow then u.switchHeater true
        else if Params.heaterOffFrom ≤ boiler then u.switchHeater false else u) := by
    split
    next => exact hl.switchHeater true hg
    next =>
      split
      next => exact hl.switchHeater false hg
      next => exact hl
  unfold SteamUnit.regulate
  split
  next hg => exact hon (.inl hg)
  next hg => exact hon (.inr (.inl hg))
  next hg => exact hon (.inr (.inr hg))
  all_goals exact hl

theorem scan (hl : SteamLawful (some h) u) (boiler rh target : Int) (bad : Bool) :
    SteamLawful (some h) (u.scan h boiler bad rh target) := by
  unfold SteamUnit.scan
  dsimp only
  split
  next hg => exact ((hl.modulate hg bad rh target).advance boiler).regulate boiler
  next => exact (hl.advance boiler).regulate boiler

end SteamLawful

/-! ## The drain pump (R164 to R168) -/

namespace DrainLawful

variable {w : WaterInventory}

/-- A pump that stands OFF with its latch clear, whatever the levels. -/
theorem pumpOff (hf : w.drainFault = false) : DrainLawful w.pumpOff where
  fault := by simp [WaterInventory.pumpOff, hf]
  forces := by simp [WaterInventory.pumpOff, hf]
  start := by simp [WaterInventory.pumpOff]
  run := by simp [WaterInventory.pumpOff]

theorem runFrom (level : Int) (hf : w.drainFault = false) : DrainLawful (w.runFrom level) where
  fault := by simp [WaterInventory.runFrom, hf]
  forces := by simp [WaterInventory.runFrom, hf]
  start := by simp [WaterInventory.runFrom]
  run := by simp [WaterInventory.runFrom]

theorem no_fault (hl : DrainLawful w) (hp : w.pump ≠ .fault) : w.drainFault = false := by
  simpa using fun hf => hp (hl.fault.mp hf)

theorem drainFails (w : WaterInventory) : DrainLawful w.drainFails where
  fault := by simp [WaterInventory.drainFails]
  forces := by simp [WaterInventory.drainFails]
  start := by simp [WaterInventory.drainFails]
  run := by simp [WaterInventory.drainFails]

theorem clearFault (w : WaterInventory) : DrainLawful w.clearFault where
  fault := by simp [WaterInventory.clearFault, WaterInventory.pumpOff]
  forces := by simp [WaterInventory.clearFault]
  start := by simp [WaterInventory.clearFault, WaterInventory.pumpOff]
  run := by simp [WaterInventory.clearFault, WaterInventory.pumpOff]

theorem onSettings (st : Settings) (hl : DrainLawful w) : DrainLawful (w.onSettings st) := by
  unfold WaterInventory.onSettings
  split
  next h =>
    have hp : w.pump = .running := by simp at h; exact h.1
    exact pumpOff (hl.no_fault (by simp [hp]))
  next => exact hl

theorem tick (hl : DrainLawful w) : DrainLawful w.tick where
  fault := hl.fault
  forces := hl.forces
  start := hl.start
  run := by
    have hr := hl.run
    simp only [WaterInventory.tick]
    split <;> simpa using hr

theorem judgePump (st : Settings) (faulted : Bool) (level : Int) (hl : DrainLawful w) :
    DrainLawful (w.judgePump st faulted level) := by
  unfold WaterInventory.judgePump
  split
  next =>
    split
    next hp =>
      split
      next => exact runFrom level (hl.no_fault (by simp [hp]))
      next => exact hl
    next hp =>
      split
      next => exact pumpOff (hl.no_fault (by simp [hp]))
      next => exact hl
    next => exact hl
  next => exact hl

theorem scan (st : Settings) (reservoir condensate : Channel) (hl : DrainLawful w) :
    DrainLawful (w.scan st reservoir condensate) :=
  judgePump st _ _ ⟨hl.fault, fun hf => by have hf' : w.drainFault = true := hf; simp [condensateLatch, hf'], hl.start, hl.run⟩

end DrainLawful

namespace State

variable {s : State} {k : Bay}

/-! ## The steam unit's rows (R101 to R108) -/

theorem mapSteam_moves {f : SteamUnit → SteamUnit} (h : SteamLawful s.arb.steamRow s.steam → SteamLawful s.arb.steamRow (f s.steam)) :
    Moves s (s.mapSteam f) := Move.moves (.steam (f s.steam) h)

theorem trip_moves (cause : TripCause) : Moves s (s.tripGenerator cause).settle :=
  (Move.trip cause).moves.trans (settle_moves _)

theorem fillTimeout_moves (s : State) : Moves s s.fillTimeout := by
  unfold fillTimeout
  split
  next => exact trip_moves _
  next => exact .refl

theorem dryFire_moves (s : State) : Moves s s.dryFire := by
  unfold dryFire
  split
  next => exact trip_moves _
  next => exact .refl

theorem warmHoldExpiry_moves (s : State) : Moves s s.warmHoldExpiry := by
  unfold warmHoldExpiry
  split
  next h =>
    have hg : s.steam.gen = .warmHold := by simp [SteamUnit.warmHoldDue] at h; exact h.1
    exact mapSteam_moves fun hl => hl.warmHoldExpiry hg
  next => exact .refl

theorem dwellElapsed_moves (s : State) : Moves s s.dwellElapsed := by
  unfold dwellElapsed
  split
  next =>
    refine mapSteam_moves fun hl => ?_
    have hc := hl.clearDwell
    dsimp only
    split
    next h hrow => rw [hrow] at hc ⊢; exact hc.tryDeliver
    next => exact hc
  next => exact .refl

theorem lowProbeDry_moves (s : State) : Moves s s.lowProbeDry := by
  unfold lowProbeDry
  split
  next => exact (mapInputs_moves _).trans (mapSteam_moves SteamLawful.lowGoesDry)
  next => exact .refl

theorem lowProbeWet_moves (s : State) : Moves s s.lowProbeWet := by
  unfold lowProbeWet
  split
  next => exact (mapInputs_moves _).trans (mapSteam_moves SteamLawful.lowGoesWet)
  next => exact .refl

theorem highProbeWet_moves (s : State) : Moves s s.highProbeWet := by
  unfold highProbeWet
  split
  next => exact (mapInputs_moves _).trans (mapSteam_moves SteamLawful.highGoesWet)
  next => exact .refl

theorem highProbeDry_moves (s : State) : Moves s s.highProbeDry := by
  unfold highProbeDry
  split
  next => exact (mapInputs_moves _).trans (mapSteam_moves SteamLawful.highGoesDry)
  next => exact .refl

theorem scanSteam_moves (s : State) : Moves s s.scanSteam := by
  unfold scanSteam
  dsimp only
  split
  next => exact trip_moves _
  next =>
    split
    next h hrow => exact mapSteam_moves fun hl => by rw [hrow] at hl ⊢; exact hl.scan ..
    next => exact .refl

/-! ## The drying circuit's rows (R113, R115, R120 to R122, R125 to R128) -/

/-- One bay's air handling changes; its reheater is ON only where it may be. -/
theorem mapAir_moves {f : AirBay → AirBay} (hair : AirFollows (s.air k) (f (s.air k)))
    (hreheat : s.ReheatersSafe → (f (s.air k)).reheater = true → s.arb.reheatOf k = some .on ∧ (f (s.air k)).damper = .opened) :
    Moves s (s.mapAir k f) := by
  refine Move.moves (.dry { s.dry with air := s.dry.air.modify k f } rfl rfl (fun j => ?_) fun hs j => ?_)
  · rw [PerBay.get_modify]
    split
    next hj => rw [hj]; exact hair
    next => exact ⟨.rfl, rfl, rfl, id⟩
  · have hj := hs j
    rw [reheatReady_iff] at hj ⊢
    change (s.mapAir k f |>.air j).reheater = true → s.arb.reheatOf j = some .on ∧ (s.mapAir k f |>.air j).damper = .opened
    rw [mapAir_air]
    split
    next hjk => rw [hjk]; exact hreheat hs
    next => exact hj

/-- A change of the fan's record alone, the fan being commanded on. -/
theorem mapTacho_moves {f : AirBay → AirBay} {t : Tacho} {due : Bool}
    (hf : f (s.air k) = { s.air k with tacho := t, reportDue := due })
    (ht : (s.air k).fanLevel = 0 → t = (s.air k).tacho) : Moves s (s.mapAir k f) := by
  refine mapAir_moves ?_ fun hs hr => ?_
  · rw [hf]; exact ⟨.rfl, rfl, rfl, fun hl hz => (ht hz).trans (hl hz)⟩
  · rw [hf] at hr ⊢
    exact (reheatReady_iff s k).mp (hs k hr)

theorem reheaterFollow_moves (s : State) (k : Bay) (was : Bool) : Moves s (s.reheaterFollow k was) := by
  unfold reheaterFollow
  split
  next h =>
    split
    next => exact .refl
    next => exact mapAir_moves ⟨.rfl, rfl, rfl, id⟩ fun _ _ => (reheatReady_iff s k).mp h
  next => exact mapAir_moves ⟨.rfl, rfl, rfl, id⟩ fun _ hr => by cases hr

theorem damperTravelEnd_moves (s : State) (k : Bay) : Moves s (s.damperTravelEnd k) := by
  unfold damperTravelEnd
  split
  next h =>
    have hmoving : (s.air k).damper = .opening ∨ (s.air k).damper = .closing := by
      simp [AirBay.travelDue, AirBay.moving] at h; exact h.1
    refine Relation.ReflTransGen.trans (mapAir_moves ?_ fun hs hr => ?_) (reheaterFollow_moves _ k _)
    · rcases hmoving with hd | hd <;>
        exact ⟨by simp [AirBay.damperOn, AirBay.travelEnd, hd], by simp [AirBay.travelEnd, hd], by simp [AirBay.travelEnd, hd],
          by simp [AirBay.travelEnd, TachoLawful, hd]⟩
    · have hon : (s.air k).reheater = true := by rcases hmoving with hd | hd <;> simpa [AirBay.travelEnd, hd] using hr
      have hopen := ((reheatReady_iff s k).mp (hs k hon)).2
      rcases hmoving with hd | hd <;> rw [hd] at hopen <;> cases hopen
  next => exact .refl

theorem findStall_moves {found : AirBay → AirBay} {t : Tacho} (hf : found (s.air k) = { s.air k with tacho := t })
    (ht : (s.air k).fanLevel = 0 → t = (s.air k).tacho) : Moves s (s.findStall k found) := by
  have hm : Moves s (s.mapAir k fun a => (found a).takeReport) :=
    mapTacho_moves (t := t) (due := false) (by simp [AirBay.takeReport, hf]) ht
  unfold findStall
  dsimp only
  split
  next => exact (hm.trans (stallReport_moves _ k)).trans (settle_moves _)
  next => exact hm

theorem silenceTimeout_moves (s : State) (k : Bay) : Moves s (s.silenceTimeout k) := by
  unfold silenceTimeout
  split
  next =>
    by_cases hd : (s.air k).silenceDue = true
    · exact findStall_moves (by rw [AirBay.silenceTimeout, if_pos hd]) fun hz => by
        simp [AirBay.silenceDue, AirBay.fanOn, hz] at hd
    · exact findStall_moves (t := (s.air k).tacho) (by rw [AirBay.silenceTimeout, if_neg hd]) fun _ => rfl
  next => exact .refl

theorem spinUpElapsed_moves (s : State) (k : Bay) : Moves s (s.spinUpElapsed k) := by
  unfold spinUpElapsed
  split
  next =>
    by_cases hd : (s.air k).spinUpDue = true
    · exact findStall_moves (by rw [AirBay.becomeStalled, if_pos hd]) fun hz => by
        simp [AirBay.spinUpDue, AirBay.stallCondition, AirBay.fanOn, hz] at hd
    · exact findStall_moves (t := (s.air k).tacho) (by rw [AirBay.becomeStalled, if_neg hd]) fun _ => rfl
  next => exact .refl

/-- An edge touches the fan's record and the mark of a report alone, and nothing while the fan is off. -/
theorem edge_follows (capture : Word16) (a : AirBay) :
    ∃ t due, a.edge capture = { a with tacho := t, reportDue := due } ∧ (a.fanLevel = 0 → t = a.tacho) := by
  unfold AirBay.edge
  split
  next hon =>
    have hz : a.fanLevel ≠ 0 := by simpa [AirBay.fanOn] using hon
    split
    next => exact ⟨_, _, rfl, fun h => absurd h hz⟩
    next =>
      split
      next => exact ⟨_, _, rfl, fun _ => rfl⟩
      next => exact ⟨_, _, rfl, fun h => absurd h hz⟩
  next => exact ⟨_, _, rfl, fun _ => rfl⟩

theorem tachometerEdge_moves (s : State) (k : Bay) (capture : Word16) : Moves s (s.tachometerEdge k capture) := by
  obtain ⟨t, due, he, ht⟩ := edge_follows capture (s.air k)
  exact mapTacho_moves he ht

theorem scanReheat_moves (s : State) (k : Bay) : Moves s (s.scanReheat k) := by
  unfold scanReheat
  split
  next h => exact mapAir_moves ⟨.rfl, rfl, rfl, id⟩ fun _ _ => (reheatReady_iff s k).mp h
  next => exact .refl

theorem scanDrying_moves (s : State) : Moves s s.scanDrying :=
  (((scanReheat_moves s 0).trans (scanReheat_moves _ 1)).trans (scanReheat_moves _ 2)).trans (scanReheat_moves _ 3)

theorem minOffExpiry_moves (s : State) : Moves s s.minOffExpiry := by
  unfold minOffExpiry
  split
  next h => exact Move.moves (.minOff (by simp [DryingCircuit.minOffDue] at h; exact h.1))
  next => exact .refl

theorem minRunExpiry_moves (s : State) : Moves s s.minRunExpiry := by
  unfold minRunExpiry
  split
  next h =>
    have ht : s.dry.comp = .tail := by simp [DryingCircuit.minRunDue] at h; exact h.1
    have hstop : s.mapDry (DryingCircuit.stop s.arb.settings) = s.mapDry (DryingCircuit.forcedStop s.arb.settings) := by
      simp [mapDry, DryingCircuit.forcedStop, ht]
    rw [hstop]
    exact (Move.forceStop (.inr ht)).moves.trans (oweAndSettle_moves _)
  next => exact .refl

theorem airTick_follows (a : AirBay) : AirFollows a a.tick where
  damper := .rfl
  fan := rfl
  vent := rfl
  tacho hl hz := by
    have hz' : a.fanLevel = 0 := hz
    simpa [AirBay.tick, AirBay.count, AirBay.fanOn, hz'] using hl hz'

theorem dryTick_moves (s : State) : Moves s { s with dry := s.dry.tick } :=
  Move.moves (.dry s.dry.tick rfl rfl (fun j => by simp [DryingCircuit.tick, State.air, airTick_follows]) fun hs j => by
    have hj := hs j
    rw [reheatReady_iff] at hj ⊢
    have hair : ({ s with dry := s.dry.tick } : State).air j = (s.air j).tick := by simp [DryingCircuit.tick, State.air]
    rw [hair]
    exact hj)

/-! ## The water inventory (R159 to R168) -/

/-- The reservoir latch's report reads and leaves the water inventory as it is. -/
theorem reportReservoir_moves (s : State) (w : WaterInventory) (before : Bool) :
    ∃ u, Moves s u ∧ u.water = s.water ∧
      ({ s with water := w } : State).reportReservoir before = { u with water := w } := by
  unfold reportReservoir
  by_cases hsame : w.reservoirLow = before
  · exact ⟨s, .refl, rfl, if_pos hsame⟩
  · by_cases hlow : w.reservoirLow = true
    · exact ⟨_, (owe_moves s).trans (raisePlant_moves .waterLow), rfl, by rw [if_neg hsame, if_pos hlow]; rfl⟩
    · exact ⟨_, owe_moves s, rfl, by rw [if_neg hsame, if_neg hlow]; rfl⟩

theorem mapWater_moves {w : WaterInventory} (hdrain : DrainLawful s.water → DrainLawful w)
    (hfull : w.condensateFull = true → s.water.condensateFull = true) : Moves s { s with water := w } :=
  Move.moves (.water w hdrain hfull)

/-- The full latch as it comes out: as it was, set now, or clear now. -/
theorem reportCondensate_moves {w : WaterInventory} (hdrain : DrainLawful s.water → DrainLawful w) :
    Moves s (({ s with water := w } : State).reportCondensate s.water.condensateFull) := by
  unfold reportCondensate
  split
  next h => exact mapWater_moves hdrain fun hf => h ▸ hf
  next h =>
    split
    next => exact Move.moves (.tankFull w hdrain)
    next hno => exact (mapWater_moves hdrain fun hf => absurd hf hno).trans (owe_moves _)

theorem scanWater_moves (s : State) : Moves s s.scanWater := by
  obtain ⟨u, hu, hw, heq⟩ := reportReservoir_moves s
    (WaterInventory.scan s.arb.settings (s.chan reservoirChannel) (s.chan condensateChannel) s.water) s.water.reservoirLow
  unfold scanWater mapWater
  dsimp only
  rw [heq, ← hw]
  exact (hu.trans (reportCondensate_moves fun hl => hl.scan ..)).trans (settle_moves _)

theorem drainCheck_moves (hp : s.water.pump = .running) : Moves s s.drainCheck := by
  unfold drainCheck
  split
  next =>
    exact mapWater_moves (fun hl => DrainLawful.runFrom _ (hl.no_fault (by simp [hp]))) id
  next =>
    exact ((reportCondensate_moves fun _ => DrainLawful.drainFails _).trans (raisePlant_moves .trip)).trans (settle_moves _)

theorem drainProgressCheck_moves (s : State) : Moves s s.drainProgressCheck := by
  unfold drainProgressCheck
  split
  next h => exact drainCheck_moves (by simp [WaterInventory.checkDue] at h; exact h.1)
  next => exact .refl

/-! ## The arbiter's commands (R49, R50, R56 to R58, R109, R167, R178) -/

theorem parseSettings_sound {record : List Byte} {st : Settings} (h : parseSettings record = some st) :
    st.inRange = true ∧ st.marksOrdered = true := by
  unfold parseSettings at h
  split at h
  next hc =>
    cases h
    simp only [Bool.and_eq_true] at hc
    exact hc.1
  next => cases h

theorem takeSettings_moves {p : Port} (record : List Byte) (hp : s.Accepts p) : Moves s (s.takeSettings p record) := by
  unfold takeSettings
  split
  next => exact reply_moves _ hp
  next hfirst =>
    split
    next st hparse =>
      obtain ⟨hrange, hmarks⟩ := parseSettings_sound hparse
      refine ((Move.settings st hfirst hrange hmarks).moves.trans (mapWater_moves (DrainLawful.onSettings st) fun hf => ?_)).trans
        (reply_moves _ (by cases p <;> exact hp))
      rw [WaterInventory.onSettings] at hf
      split at hf <;> exact hf
    next => exact reply_moves _ hp

theorem oweAndSettle_accepts {p : Port} (hp : s.Accepts p) : s.oweAndSettle.Accepts p :=
  accepts_of_stable (oweAndSettle_stable _) hp

/-- A command of the arbiter that changes neither the grant table nor what the draw is made of. -/
theorem setRules_moves {p : Port} {f : Arbiter → Arbiter} (hp : s.Accepts p)
    (htable : ((f s.arb).steamRow, (f s.arb).slotA, (f s.arb).slotB, (f s.arb).requests) =
      (s.arb.steamRow, s.arb.slotA, s.arb.slotB, s.arb.requests))
    (hpower : ((f s.arb).budget, (f s.arb).committed, (f s.arb).settings) = (s.arb.budget, s.arb.committed, s.arb.settings))
    (hring : s.RingWhole → (f s.arb).ring.Perm [0, 1, 2, 3])
    (hcommissioning : (f s.arb).commissioning = .uncommissioned → s.arb.commissioning = .uncommissioned) (st : Status) :
    Moves s (((s.mapArb f).oweAndSettle).reply p st) :=
  ((Move.rules (f s.arb) htable hpower hring hcommissioning).moves.trans (oweAndSettle_moves _)).trans
    (reply_moves st (oweAndSettle_accepts (by cases p <;> exact hp)))

theorem takeCommission_moves {p : Port} (hp : s.Accepts p) : Moves s (s.takeCommission p) := by
  unfold takeCommission
  split
  next => exact reply_moves _ hp
  next => exact setRules_moves hp rfl rfl id (by simp) _

theorem takeMode_moves {p : Port} (mode : Byte) (hp : s.Accepts p) : Moves s (s.takeMode p mode) := by
  unfold takeMode
  split
  next => exact setRules_moves hp rfl rfl id id _
  next => exact reply_moves _ hp

theorem promote_ring (k : Bay) (h : s.RingWhole) : (k :: s.arb.ring.filter (· ≠ k)).Perm [0, 1, 2, 3] := by
  have hf := h.filter (· ≠ k)
  refine (hf.cons k).trans ?_
  match k with
  | 0 | 1 | 2 | 3 => decide

theorem takePromote_moves {p : Port} (b : Byte) (hp : s.Accepts p) : Moves s (s.takeOnBay p b Arbiter.promote) := by
  unfold takeOnBay
  split
  next k _ => exact setRules_moves hp rfl rfl (promote_ring k) id _
  next => exact reply_moves _ hp

theorem takeMask_moves {p : Port} (b : Byte) (on : Bool) (hp : s.Accepts p) : Moves s (s.takeOnBay p b (setMask on)) := by
  unfold takeOnBay
  split
  next k _ => exact setRules_moves hp rfl rfl id id _
  next => exact reply_moves _ hp

theorem clearGenerator_moves (s : State) : Moves s s.clearGenerator := by
  unfold clearGenerator
  dsimp only
  split
  next h =>
    have hg : s.steam.gen = .tripped := by simp [SteamUnit.clearable] at h; exact h.1.1
    exact (mapSteam_moves fun hl => hl.clearTrip hg).trans (owe_moves _)
  next => exact .refl

theorem clearDrain_moves (s : State) : Moves s s.clearDrain := by
  unfold clearDrain
  split
  next => exact mapWater_moves (fun _ => DrainLawful.clearFault _) id
  next => exact .refl

theorem clearGenerator_port (s : State) (p : Port) : s.clearGenerator.port p = s.port p := by
  unfold clearGenerator; dsimp only; split <;> rfl

theorem clearDrain_port (s : State) (p : Port) : s.clearDrain.port p = s.port p := by unfold clearDrain; split <;> rfl

theorem takeClearTrip_moves {p : Port} (hp : s.Accepts p) : Moves s (s.takeClearTrip p) := by
  unfold takeClearTrip
  split
  next =>
    exact (((clearGenerator_moves s).trans (clearDrain_moves _)).trans (settle_moves _)).trans (reply_moves _
      (accepts_of_stable (settle_stable _) (by unfold Accepts; rw [clearDrain_port, clearGenerator_port]; exact hp)))
  next => exact reply_moves _ hp

theorem entries_moves {r : PerBay (Option Entry)} (h : ∀ k : Bay, EntryFollows (s.arb.requests.get k) (r.get k)) :
    Moves s (s.mapArb fun a => { a with requests := r }) := Move.moves (.entries r h)

theorem blockingByAge_moves (s : State) (k : Bay) : Moves s (s.blockingByAge k) := by
  unfold blockingByAge
  split
  next e he =>
    split
    next =>
      have hm : Moves s (s.mapArb fun a => { a with requests := a.requests.set k (some { e with ageMark := .blocking }) }) := by
        refine entries_moves fun j => ?_
        rw [PerBay.get_set]
        split
        next hj =>
          rw [hj, he]
          exact ⟨fun e => { e with ageMark := .blocking }, rfl, fun _ => ⟨rfl, id⟩⟩
        next => exact ⟨id, by simp, fun _ => ⟨rfl, id⟩⟩
      dsimp only
      split
      next => exact hm.trans (oweAndSettle_moves _)
      next => exact hm
    next => exact .refl
  next => exact .refl

end State
end Sys2Proof.Machine

/-!
PROOFS. Every row of the table but SET_BUDGET is a sequence of moves.
-/

namespace Sys2Proof.Machine

namespace State

variable {s : State} {k : Bay}

/-! ## The expiries of a tick (log 3) -/

theorem eachBay_moves {event : Bay → State → State} (h : ∀ t k, Moves t (event k t)) (s : State) : Moves s (s.eachBay event) :=
  (((h s 0).trans (h _ 1)).trans (h _ 2)).trans (h _ 3)

theorem doorSettled_moves (s : State) (k : Bay) : Moves s (s.doorSettled k) := by
  unfold doorSettled
  split
  next =>
    split
    next => exact doorOpening_moves s k
    next => exact doorClosing_moves s k
  next => exact .refl

theorem lowSettled_moves (s : State) : Moves s s.lowSettled := by
  unfold lowSettled
  split
  next =>
    split
    next => exact lowProbeWet_moves s
    next => exact lowProbeDry_moves s
  next => exact .refl

theorem highSettled_moves (s : State) : Moves s s.highSettled := by
  unfold highSettled
  split
  next =>
    split
    next => exact highProbeWet_moves s
    next => exact highProbeDry_moves s
  next => exact .refl

theorem takeExpiries_moves (s : State) : Moves s s.takeExpiries := by
  have hsteam := (((fillTimeout_moves s).trans (dryFire_moves _)).trans (warmHoldExpiry_moves _)).trans (dwellElapsed_moves _)
  have hair := ((((hsteam.trans (minOffExpiry_moves _)).trans (minRunExpiry_moves _)).trans
    (eachBay_moves damperTravelEnd_moves _)).trans (eachBay_moves silenceTimeout_moves _)).trans
    (eachBay_moves spinUpElapsed_moves _)
  have hbays := (((hair.trans (eachBay_moves stepEndsOnLimit_moves _)).trans (eachBay_moves waitTimeout_moves _)).trans
    (eachBay_moves purgeEnd_moves _)).trans (eachBay_moves blockingByAge_moves _)
  exact (((hbays.trans (drainProgressCheck_moves _)).trans (eachBay_moves doorSettled_moves _)).trans
    (lowSettled_moves _)).trans (highSettled_moves _)

theorem takeDue_moves (s : State) : Moves s s.takeDue := (takeExpiries_moves s).trans (scanStart_moves _)

/-! ## The tick -/

theorem contextTick_follows {req : Option Entry} (b : BayContext) (limit : Nat) (c : Bool) :
    ContextFollows req b (b.tick limit c) := by
  have htimes {p : Option Nat} {n w : Nat} {l r : Bool} (hp : p.isSome = b.purgeRemaining.isSome) :
      ContextFollows req b { b with purgeRemaining := p, stepRemaining := n, waitElapsed := w, limitReached := l, waitReached := r } := {
    state := rfl, kind := rfl, fan := by simp [BayContext.fanDemand, hp, BayContext.currentStep]
    vent := by simp [BayContext.ventDemand, hp, BayContext.currentKind, BayContext.currentStep]
    laws := fun hl => ⟨hl.request, hl.entry, hl.idle, hl.source, hl.index, hl.record, hl.shut, hl.held⟩
    halts := fun hh => ⟨fun hne => hh.purge fun hn => hne (by simpa [hn] using hp), hh.fault, hh.run, hh.bound⟩ }
  unfold BayContext.tick
  split
  next =>
    split
    next => exact htimes rfl
    next => exact htimes rfl
  next => exact htimes rfl
  next =>
    split
    next => exact htimes (by simp)
    next => exact htimes rfl
  all_goals exact htimes rfl

theorem countTick_moves (s : State) : Moves s s.countTick := by
  have hbays : Moves s { s with bays := PerBay.ofFn fun k => (s.bay k).tick s.arb.settings.waitTimeout (s.counts k) } :=
    Move.moves (.contexts _ fun k => by rw [PerBay.get_ofFn]; exact contextTick_follows ..)
  have hentries := hbays.tail (.entries (s.arb.requests.map (Option.map (Entry.tick s.arb.settings))) fun k =>
    ⟨Entry.tick s.arb.settings, PerBay.get_map .., fun _ => ⟨rfl, id⟩⟩)
  have hsteam := hentries.trans (mapSteam_moves SteamLawful.tick)
  have hdry := hsteam.trans (dryTick_moves _)
  have hscan := hdry.trans (mapScan_moves scanTick_sound)
  have hwater := hscan.trans (mapWater_moves (w := s.water.tick) DrainLawful.tick id)
  exact hwater.tail (.beside ⟨rfl, id, id, id, .of_library rfl⟩ rfl rfl rfl rfl rfl)

theorem reportStall_moves (s : State) (k : Bay) : Moves s (s.reportStall k) := by
  unfold reportStall
  split
  next => exact stallReport_moves s k
  next => exact .refl

theorem tick_moves (lines : Option Lines) (s : State) : Moves s (s.tick lines) := by
  unfold tick sampleInputs
  dsimp only
  exact ((((takeDue_moves s).trans (mapInputs_moves _)).trans (countTick_moves _)).trans (eachBay_moves reportStall_moves _)).trans
    (settle_moves _)

/-! ## The scan complete (R132, R133, R137) -/

theorem scanOneBay_moves (s : State) (k : Bay) : Moves s (s.scanOneBay k) :=
  ((scanEstimator_moves s k).trans (scanBay_moves _ k)).trans (settle_moves _)

theorem finishScan_moves (code : Code) (s : State) : Moves s (s.finishScan code) := by
  have hplant := ((((takeExpiries_moves s).trans (mapScan_moves (endLast_sound code))).trans (scanSteam_moves _)).trans
    (scanDrying_moves _)).trans (scanWater_moves _)
  exact (((hplant.trans (scanOneBay_moves _ 0)).trans (scanOneBay_moves _ 1)).trans (scanOneBay_moves _ 2)).trans
    (scanOneBay_moves _ 3)

theorem endConversion_sound (n : ChannelNo) (code : Code) (h : s.ScannerSound) :
    (s.mapScan (Scanner.endConversion n code)).ScannerSound := by
  have hs := inFlight_sound n code h
  rw [scannerSound_iff] at hs ⊢
  exact hs

theorem endConversion_moves (code : Code) (s : State) : Moves s (s.endConversion code) := by
  unfold endConversion
  split
  next =>
    split
    next => exact finishScan_moves code s
    next => exact mapScan_moves (endConversion_sound _ code)
  next => exact .refl

/-! ## The rows (R172, R179) -/

theorem reset_moves (cause : ResetCause) (pins : Pins) : Moves s (s.resetAll cause pins) := Move.moves (.reset cause pins)

theorem resetPart_moves (pins : Pins) :
    Moves s ((s.resetAll .command { pins with serviceRead := false }).reply .service .ok) :=
  (reset_moves _ _).trans (reply_moves _ (by simp [Accepts, resetAll, afterReset, Ports.afterReset, PortRec.afterReset, port]))

theorem bayCommand_moves {o : Origin} {c : Command} {params : List Byte} {act : Bay → State → State}
    (h : s.Accepts o.port → Moves s (act o.bay s)) : Moves s (s.bayCommand o c params act) := command_moves h

theorem takeRecipe_moves {p : Port} (slot : Byte) (hp : s.Accepts p) :
    Moves s (match s.library.lookup slot with
      | .ok program => s.replyWith p program.bytes
      | .error status => s.reply p status) := by
  split
  next => exact replyWith_moves _ hp
  next => exact reply_moves _ hp

theorem bayCommand_whenState_moves {o : Origin} {c : Command} {params : List Byte} {allowed : BayState → Bool}
    {f : Bay → State → State} (hstable : (f o.bay s).stable = s.stable)
    (h : allowed (s.bay o.bay).state = true → Moves s (f o.bay s)) :
    Moves s (s.bayCommand o c params fun k => whenState allowed o.port k (f k)) :=
  command_moves fun hp => whenState_moves hp (accepts_of_stable hstable) h

/-- SET_BUDGET is the one command that may take grants away for power. -/
theorem after_moves (i : Instr) (s : State) (h : ∀ p w, i ≠ .setBudget p w) : Moves s (s.after i) := by
  cases i with
  | powerOnReset pins low => exact reset_moves _ _
  | resetnReset pins => exact reset_moves _ _
  | frameRefused p w =>
    change Moves s (if w = [] then _ else _)
    split
    next => exact endEmpty_moves p
    next => exact takeFrame_moves fun _ => .refl
  | loadRecipe o slot water => exact bayCommand_moves fun hp => loadFromSlot_moves slot water.toNat hp
  | loadProgram o water record => exact bayCommand_moves fun hp => loadInline_moves water.toNat record hp
  | start o => exact bayCommand_whenState_moves (startBay_stable ..) fun ha => startBay_moves (by simpa using ha)
  | abort o => exact bayCommand_whenState_moves (abortBay_stable ..) abortBay_moves
  | skipStep o => exact bayCommand_whenState_moves (skipBay_stable ..) skipBay_moves
  | clear o => exact bayCommand_whenState_moves (clearBay_stable ..) clearBay_moves
  | readBay o => exact command_moves fun hp => replyWith_moves _ hp
  | readPlant p => exact command_moves fun hp => replyWith_moves _ hp
  | readRecipe p slot => exact command_moves fun hp => takeRecipe_moves slot hp
  | readNotices p =>
    exact command_moves fun hp => mapPort_moves (by simp [PortRec.readNotices, PortRec.answer, hp])
  | setNoticeMask p mask =>
    exact command_moves fun hp => (mapPort_moves .rfl).trans (reply_moves _ (by simpa [Accepts] using hp))
  | setPlant p record => exact command_moves fun hp => takeSettings_moves record hp
  | commission p => exact command_moves fun hp => takeCommission_moves hp
  | setBudget p w => exact absurd rfl (h p w)
  | setArbitration p mode => exact command_moves fun hp => takeMode_moves mode hp
  | promote p b => exact command_moves fun hp => takePromote_moves b hp
  | mask p b => exact command_moves fun hp => takeMask_moves b true hp
  | unmask p b => exact command_moves fun hp => takeMask_moves b false hp
  | clearTrip p => exact command_moves fun hp => takeClearTrip_moves hp
  | writeRecipe p slot record => exact command_moves fun hp => takeWrite_moves slot record hp
  | eraseRecipe p slot => exact command_moves fun hp => takeErase_moves slot hp
  | eraseLibrary p => exact command_moves fun _ => eraseLibrary_moves s
  | setTrim p channel trim => exact command_moves fun hp => takeTrim_moves channel trim hp
  | readChannels p => exact command_moves fun hp => replyWith_moves _ hp
  | resetPart p pins => exact command_moves fun _ => resetPart_moves pins
  | libraryPhaseEnd => exact libraryPhaseEnd_moves s
  | libraryCompletion => exact libraryCompletion_moves s
  | tick lines => exact tick_moves lines s
  | scanStart => exact scanStart_moves s
  | conversionEnd code => exact endConversion_moves code s
  | scanComplete code =>
    change Moves s (if _ then _ else _)
    split
    next => exact finishScan_moves code s
    next => exact .refl
  | waitTimeout k => exact waitTimeout_moves s k
  | stepEndsOnLimit k => exact stepEndsOnLimit_moves s k
  | blockingByAge k => exact blockingByAge_moves s k
  | doorOpening k => exact doorOpening_moves s k
  | doorClosing k => exact doorClosing_moves s k
  | purgeEnd k => exact purgeEnd_moves s k
  | lowProbeDry => exact lowProbeDry_moves s
  | lowProbeWet => exact lowProbeWet_moves s
  | highProbeWet => exact highProbeWet_moves s
  | highProbeDry => exact highProbeDry_moves s
  | fillTimeout => exact fillTimeout_moves s
  | dryFire => exact dryFire_moves s
  | dwellElapsed => exact dwellElapsed_moves s
  | warmHoldExpiry => exact warmHoldExpiry_moves s
  | minOffExpiry => exact minOffExpiry_moves s
  | minRunExpiry => exact minRunExpiry_moves s
  | damperTravelEnd k => exact damperTravelEnd_moves s k
  | tachometerEdge k capture => exact tachometerEdge_moves s k capture
  | silenceTimeout k => exact silenceTimeout_moves s k
  | spinUpElapsed k => exact spinUpElapsed_moves s k
  | drainProgressCheck => exact drainProgressCheck_moves s
  | writeStart p a =>
    change Moves s (if _ then _ else _)
    split
    next => exact (endEmpty_moves p).trans (startWrite_moves p)
    next => exact endEmpty_moves p
  | emptyWrite p => exact endEmpty_moves p

end State
end Sys2Proof.Machine

/-!
PROOFS. Every row as moves, SET_BUDGET among them; no row changes the queue, and every row keeps the blocks beside the plant sound.
-/

namespace Sys2Proof.Machine

namespace State

variable {s t u : State} {k : Bay}

/-! ## The shed of a budget fall (R80 to R85) -/

theorem shedReheat_moves (more : State → Bool) (l : List Bay) (s : State) : Moves s (shedReheat more l s) := by
  induction l generalizing s with
  | nil => exact .refl
  | cons k rest ih =>
    unfold shedReheat
    split
    next h =>
      have hon : s.arb.reheatOf k = some .on := by simp at h; exact h.2
      exact (Move.reheatOff k .pending (by simp) (by rw [hon]; rfl)).moves.trans (ih _)
    next => exact ih s

theorem shedTail_moves (s : State) : Moves s s.shedTail := by
  unfold shedTail
  split
  next h =>
    obtain ⟨-, hA, hB⟩ := h
    exact Move.moves (.forceStop (.inl ⟨by simpa using hA, by simpa using hB⟩))
  next => exact .refl

theorem shedDry_moves (l : List Bay) (s : State) : Moves s (shedDry l s) := by
  induction l generalizing s with
  | nil => exact .refl
  | cons k rest ih =>
    unfold shedDry
    split
    next h =>
      have hk : s.arb.holdsDry k = true := by simp at h; exact h.2
      exact (Move.revokeDry k hk).moves.trans (ih _)
    next => exact ih s

theorem shedSteam_moves (s : State) : Moves s s.shedSteam := by
  unfold shedSteam
  split
  next k hk =>
    split
    next => exact Move.moves (.revokeSteam k hk)
    next => exact .refl
  next => exact .refl

theorem shed_moves (s : State) : Moves s s.shed := by
  unfold shed shedStages
  split
  next =>
    exact (((shedReheat_moves _ _ s).trans (shedTail_moves _)).trans (shedDry_moves _ _)).trans
      ((shedSteam_moves _).trans (raisePlant_moves _))
  next => exact .refl

/-- The state with another budget in force (R78). -/
def withBudget (w : Nat) (s : State) : State := s.mapArb fun a => { a with budget := w }

theorem clampBudget_range (watts : Nat) : 1000 ≤ clampBudget watts ∧ clampBudget watts ≤ 7200 := by
  unfold clampBudget
  rw [clampNat_eq (by decide)]
  omega

theorem withBudget_accepts {p : Port} (w : Nat) (hp : s.Accepts p) : (s.withBudget w).Accepts p := by cases p <;> exact hp

/-- SET_BUDGET leaves the part as a reply does, or sets the budget, sheds, evaluates and answers. -/
theorem setBudget_cases (p : Port) (watts : Word16) (s : State) :
    Moves s (s.after (.setBudget p watts)) ∨
    s.Accepts p ∧ s.after (.setBudget p watts) = ((s.withBudget (clampBudget watts.toNat)).shed.oweAndSettle).reply p .ok := by
  change Moves s (s.takeFrame p _ _) ∨ _ ∧ s.takeFrame p _ _ = _
  rw [takeFrame_eq]
  split
  next => exact .inl .refl
  next hp =>
    split
    next st _ => exact .inl (reply_moves st hp)
    next => exact .inr ⟨hp, rfl⟩

theorem budget_moves {p : Port} (w : Nat) (hp : s.Accepts p) :
    Moves (s.withBudget w) (((s.withBudget w).shed.oweAndSettle).reply p .ok) :=
  ((shed_moves _).trans (oweAndSettle_moves _)).trans (reply_moves _ (oweAndSettle_accepts
    (accepts_of_stable (shed_stable _) (withBudget_accepts w hp))))

/-- Every row is moves, from the state as it is or from that state with another budget. -/
theorem after_cases (i : Instr) (s : State) : Moves s (s.after i) ∨ ∃ w, Moves (s.withBudget w) (s.after i) := by
  by_cases hi : ∃ p watts, i = .setBudget p watts
  · obtain ⟨p, watts, rfl⟩ := hi
    obtain h | ⟨hp, h⟩ := setBudget_cases p watts s
    · exact .inl h
    · rw [h]; exact .inr ⟨_, budget_moves _ hp⟩
  · exact .inl (after_moves i s fun p w h => hi ⟨p, w, h⟩)

/-! ## The blocks beside the plant -/

theorem Beside.trans (h : s.Beside t) (g : t.Beside u) : s.Beside u where
  pending := g.pending.trans h.pending
  estimates := g.estimates ∘ h.estimates
  scanner := g.scanner ∘ h.scanner
  ports := g.ports ∘ h.ports
  library := g.library ∘ h.library

/-- Neither the arbiter nor the bays nor the plant is among the blocks beside. -/
theorem Beside.of_blocks (hlib : t.library = s.library) (hscan : t.scan = s.scan) (hest : t.est = s.est) (hports : t.ports = s.ports)
    (hpending : t.pending = s.pending) : s.Beside t where
  pending := hpending
  estimates := by unfold EstimatesSound; rw [hest]; exact id
  scanner := by unfold ScannerSound; rw [hscan]; exact id
  ports := by unfold PendingSound; rw [hports, hlib]; exact id
  library := .of_library hlib

theorem Beside.refl (s : State) : s.Beside s := .of_blocks rfl rfl rfl rfl rfl

theorem channelReset_lawful (n : ChannelNo) : ChannelLawful n Channel.afterReset := by
  refine ⟨by decide, by decide, ?_⟩
  change scaleCode (classOf n) 0 ≤ 0 ∧ 0 ≤ scaleCode (classOf n) 4095
  cases classOf n <;> decide

theorem resetAll_estimates (cause : ResetCause) (pins : Pins) (s : State) : (s.resetAll cause pins).EstimatesSound := fun k => by
  have hk : (s.resetAll cause pins).est.get k = Estimator.afterReset := PerBay.get_fill ..
  rw [hk]
  decide

theorem resetAll_scanner (cause : ResetCause) (pins : Pins) (s : State) : (s.resetAll cause pins).ScannerSound := by
  refine scannerSound_iff.mpr ⟨Nat.zero_le _, Nat.zero_le _, fun n => ?_⟩
  have hn : (s.resetAll cause pins).scan.channels[n] = Channel.afterReset := by
    simp [resetAll, afterReset, Scanner.afterReset]
  rw [hn]
  exact channelReset_lawful n

theorem resetAll_ports (cause : ResetCause) (pins : Pins) (s : State) : (s.resetAll cause pins).PendingSound := by
  refine ⟨by simp [resetAll, afterReset, Ports.afterReset, PortRec.afterReset], fun k => ?_⟩
  simp [resetAll, afterReset, Ports.afterReset, PortRec.afterReset]

theorem resetAll_library {cause : ResetCause} {pins : Pins} (h : s.LibrarySound) : (s.resetAll cause pins).LibrarySound :=
  ⟨h.1, by simp [writtenRecord, resetAll, afterReset], by simp [erasingBegun, resetAll, afterReset]⟩

theorem move_beside (h : Move s t) : s.Beside t := by
  cases h with
  | beside h => exact h
  | reset cause pins =>
    exact ⟨rfl, fun _ => resetAll_estimates cause pins s, fun _ => resetAll_scanner .., fun _ => resetAll_ports .., resetAll_library⟩
  | rules => exact .of_blocks rfl rfl rfl rfl rfl
  | settings => exact .of_blocks rfl rfl rfl rfl rfl
  | entries => exact .of_blocks rfl rfl rfl rfl rfl
  | contexts => exact .of_blocks rfl rfl rfl rfl rfl
  | steam => exact .of_blocks rfl rfl rfl rfl rfl
  | dry => exact .of_blocks rfl rfl rfl rfl rfl
  | minOff => exact .of_blocks rfl rfl rfl rfl rfl
  | forceStop => exact .of_blocks rfl rfl rfl rfl rfl
  | water => exact .of_blocks rfl rfl rfl rfl rfl
  | tankFull w => exact (Beside.of_blocks (s := s) (t := { s with water := w }) rfl rfl rfl rfl rfl).trans (.of_stable (onTankFull_stable _))
  | letsGo k req raise h => exact .of_stable h.stable
  | onlyBay k raise h hbeside => exact hbeside
  | dropEntry k => exact .of_stable (withdraw_stable ..)
  | revokeSteam k => exact .of_stable (revokeSteam_stable ..)
  | revokeDry k => exact .of_stable (revokeDry_stable ..)
  | trip cause => exact .of_stable (tripGenerator_stable ..)
  | reheatOff k r => exact .of_stable (setReheat_stable ..)
  | evaluate => exact .of_stable (evaluate_stable _)

theorem beside_of_moves (h : Moves s t) : s.Beside t := by
  induction h with
  | refl => exact .refl s
  | tail _ h ih => exact ih.trans (move_beside h)

theorem after_beside (i : Instr) (s : State) : s.Beside (s.after i) := by
  obtain h | ⟨w, h⟩ := after_cases i s
  · exact beside_of_moves h
  · exact (Beside.of_blocks (s := s) (t := s.withBudget w) rfl rfl rfl rfl rfl).trans (beside_of_moves h)

end State

/-- Settles O2: every arm of `exec` completes, and the moves of a row leave the queue. -/
theorem everyCommandCompletesAndKeepsTheQueue : Obligations.EveryCommandCompletesAndKeepsTheQueue := fun i s =>
  ⟨s.after i, State.exec_eq_after i s, (State.after_beside i s).pending⟩

/-- The part as a step finds it: idle, or the front command taken. -/
theorem step_cases {s t : State} (h : step s = .next t) :
    t = s ∨ ∃ i rest, s.pending = i :: rest ∧ t = ({ s with pending := rest } : State).after i := by
  unfold step at h
  split at h
  next => cases h; exact .inl rfl
  next i rest hp => exact .inr ⟨i, rest, hp, (State.after_of_exec h).symm⟩

/-- A law that speaks of no queue and that every row keeps, a step keeps. -/
theorem step_keeps {P : State → Prop} (hqueue : ∀ s l, P s → P { s with pending := l }) (hrow : ∀ i s, P s → P (s.after i))
    {s t : State} (hs : P s) (h : step s = .next t) : P t := by
  obtain rfl | ⟨i, rest, -, rfl⟩ := step_cases h
  · exact hs
  · exact hrow i _ (hqueue s rest hs)

/-- Settles O60: each block's soundness is kept by every move, so by every row and every step. -/
theorem everyStepKeepsTheOtherBlocksSound : Obligations.EveryStepKeepsTheOtherBlocksSound := by
  unfold Obligations.EveryStepKeepsTheOtherBlocksSound
  refine ⟨fun s t h => ⟨fun hs => ?_, fun hs => ?_⟩, fun s t h => ⟨fun hs => ?_, fun hs => ?_⟩⟩
  · exact step_keeps (P := State.EstimatesSound) (fun _ _ h => h) (fun i s => (State.after_beside i s).estimates) hs h
  · exact step_keeps (P := State.ScannerSound) (fun _ _ h => h) (fun i s => (State.after_beside i s).scanner) hs h
  · exact step_keeps (P := State.PendingSound) (fun _ _ h => h) (fun i s => (State.after_beside i s).ports) hs h
  · exact step_keeps (P := State.LibrarySound) (fun _ _ h => h) (fun i s => (State.after_beside i s).library) hs h

end Sys2Proof.Machine

/-!
PROOFS. What an evaluation keeps: a law that entries, reheat statuses and single grants keep.
-/

namespace Sys2Proof.Machine

namespace EntryFollows

theorem refl (e : Option Entry) : EntryFollows e e := ⟨id, by simp, fun _ => ⟨rfl, id⟩⟩

theorem trans {e f g : Option Entry} (h : EntryFollows e f) (h' : EntryFollows f g) : EntryFollows e g := by
  obtain ⟨x, rfl, hx⟩ := h
  obtain ⟨y, rfl, hy⟩ := h'
  exact ⟨y ∘ x, by simp, fun e => ⟨(hy (x e)).1.trans (hx e).1, (hy (x e)).2 ∘ (hx e).2⟩⟩

theorem isSome {e f : Option Entry} (h : EntryFollows e f) : f.isSome = e.isSome := by
  obtain ⟨g, rfl, -⟩ := h
  simp

theorem resource {e f : Option Entry} (h : EntryFollows e f) : f.map (·.resource) = e.map (·.resource) := by
  obtain ⟨g, rfl, hg⟩ := h
  cases e <;> simp [hg]

theorem bypass {e f : Option Entry} (h : EntryFollows e f) (hb : ∀ x ∈ e, x.bypass ≤ 3) : ∀ x ∈ f, x.bypass ≤ 3 := by
  obtain ⟨g, rfl, hg⟩ := h
  cases e with
  | none => simp
  | some e => rintro x ⟨⟩; exact (hg e).2 (hb e rfl)

end EntryFollows

/-- The bypass raises of a pass follow the entries (R64). -/
theorem raisePassed_follows (l : List Bay) (a : Arbiter) (j : Bay) :
    EntryFollows (a.requests.get j) ((Arbiter.raisePassed l a).requests.get j) := by
  induction l generalizing a with
  | nil => exact .refl _
  | cons k rest ih =>
    refine EntryFollows.trans ?_ (ih { a with requests := a.requests.modify k (Option.map Entry.raise) })
    simp only [PerBay.get_modify]
    split
    next => exact ⟨Entry.raise, rfl, fun e => ⟨rfl, fun _ => Nat.min_le_left ..⟩⟩
    next => exact .refl _

namespace State

variable {s : State}

theorem mapArb_raisePassed (s : State) (l : List Bay) :
    s.mapArb (Arbiter.raisePassed l) = s.mapArb fun a => { a with requests := (Arbiter.raisePassed l s.arb).requests } := by
  obtain ⟨⟨r, hr⟩, -⟩ := raisePassed_requests s.arb l
  simp [mapArb, hr]

/-- What the passes of an evaluation keep: `P` a law of the part, `F` what a pass establishes of the power for an entry it grants. -/
structure WalkStable (P : State → Prop) (F : State → Entry → Prop) : Prop where
  entries : ∀ {s : State} {r : PerBay (Option Entry)}, (∀ k : Bay, EntryFollows (s.arb.requests.get k) (r.get k)) → P s →
    P (s.mapArb fun a => { a with requests := r })
  off : ∀ {s : State} {k : Bay}, s.arb.reheatOf k = some .on → P s → P (s.setReheat k .pending)
  on : ∀ {s : State} {k : Bay}, s.arb.reheatOf k = some .pending → s.reheatFits = true → P s → P (s.setReheat k .on)
  fits : ∀ {s : State} {e : Entry}, P s → s.fits e = true → F s e
  shed : ∀ {s : State} {e : Entry}, P s → s.fitsUnheated e = true →
    F (shedReheat (fun t => !t.fits e) s.arb.ring.reverse s) e
  passed : ∀ {s : State} {e : Entry} {r : PerBay (Option Entry)}, F s e → F (s.mapArb fun a => { a with requests := r }) e
  grant : ∀ {s : State} {k : Bay} {e f : Entry}, P s → F s e → s.eligible k e = true → s.arb.requests.get k = some f →
    f.resource = e.resource → P (s.grantInPass k e [])

variable {P : State → Prop} {F : State → Entry → Prop}

theorem WalkStable.shedReheat (h : WalkStable P F) (more : State → Bool) (l : List Bay) (hs : P s) : P (shedReheat more l s) := by
  induction l generalizing s with
  | nil => exact hs
  | cons k rest ih =>
    unfold State.shedReheat
    split
    next hon => exact ih (h.off (by simp at hon; exact hon.2) hs)
    next => exact ih hs

theorem WalkStable.upgradeReheat (h : WalkStable P F) (l : List Bay) (hs : P s) : P (upgradeReheat l s) := by
  induction l generalizing s with
  | nil => exact hs
  | cons k rest ih =>
    unfold State.upgradeReheat
    split
    next hup => exact ih (h.on hup.1 hup.2 hs)
    next => exact ih hs

theorem WalkStable.grantInPass (h : WalkStable P F) {k : Bay} {e f : Entry} (q : List Bay) (hs : P s) (hF : F s e)
    (hel : s.eligible k e = true) (hk : s.arb.requests.get k = some f) (hr : f.resource = e.resource) :
    P (s.grantInPass k e q) := by
  have hfollows := raisePassed_follows q s.arb
  have hg : s.grantInPass k e q = (s.mapArb (Arbiter.raisePassed q)).grantInPass k e [] := rfl
  obtain ⟨g, hget, hres⟩ := hfollows k
  rw [hk] at hget
  have hel' : (s.mapArb (Arbiter.raisePassed q)).eligible k e = true := by
    obtain ⟨⟨r, hrr⟩, -⟩ := raisePassed_requests s.arb q
    rw [mapArb_raisePassed]
    exact hel
  rw [hg]
  rw [mapArb_raisePassed] at hel' ⊢
  exact h.grant (h.entries hfollows hs) (h.passed hF) hel' (f := g f) hget ((hres f).1.trans hr)

theorem WalkStable.walk (h : WalkStable P F) (n : Nat) (hs : P s) : P (walk n s) := by
  induction n generalizing s with
  | zero => exact hs
  | succ n ih =>
    have hspec := pass_spec s s.arb.ring []
    unfold State.walk
    split
    next k e q hp =>
      rw [hp] at hspec
      obtain ⟨-, hk, hel, hfit⟩ := hspec
      exact ih (h.grantInPass q hs (h.fits hs hfit) hel hk rfl)
    next => exact h.upgradeReheat _ hs
    next k e q hp =>
      rw [hp] at hspec
      obtain ⟨-, hk, hel, -, -⟩ := hspec
      split
      next hun =>
        obtain ⟨hrow, hA, hB⟩ := shedReheat_slots s (fun t => !t.fits e) s.arb.ring.reverse
        refine ih (h.grantInPass q (h.shedReheat _ _ hs) (h.shed hs hun) ?_ (f := e) (by simpa using hk) rfl)
        rwa [eligible_congr s (shedReheat_onlyGrants ..) hrow hA hB k rfl]
      next => exact hs

end State
end Sys2Proof.Machine

/-!
PROOFS. The request list and the grant table agree with the bays: every move keeps that agreement, so every row and every step (R42,
R51, R52).
-/

namespace Sys2Proof.Machine

/-- The bay is ACTIVE in a step that uses the resource. -/
def BayContext.serves (b : BayContext) (q : Resource) : Prop := b.state = .active ∧ b.currentKind.bind StepKind.resource = some q

theorem StepKind.resource_eq_steam (kind : Option StepKind) : kind.bind StepKind.resource = some .steam ↔ kind = some .steam := by
  rcases kind with _ | (_ | _ | _ | _ | _) <;> simp [StepKind.resource]

theorem StepKind.resource_eq_dry (kind : Option StepKind) : kind.bind StepKind.resource = some .dry ↔ kind = some .dry := by
  rcases kind with _ | (_ | _ | _ | _ | _) <;> simp [StepKind.resource]

theorem BayContext.serves_unique {b : BayContext} {q r : Resource} (hq : b.serves q) (hr : b.serves r) : q = r :=
  Option.some.inj (hq.2.symm.trans hr.2)

theorem BayContext.serves_step {b : BayContext} {q : Resource} (h : b.serves q) : ∃ r, b.currentStep = some r ∧ r.kind.resource = some q := by
  obtain ⟨-, hk⟩ := h
  unfold BayContext.currentKind at hk
  cases hs : b.currentStep with
  | none => rw [hs] at hk; cases hk
  | some r => rw [hs] at hk; exact ⟨r, rfl, hk⟩

/-- A bay whose grant is revoked waits anew. -/
def BayContext.awaits (b : BayContext) : BayContext :=
  { b with state := .await, waitElapsed := 0, overheatRun := 0, limitReached := false, waitReached := false }

theorem BayLawful.awaits {req : Option Entry} {b : BayContext} {q : Resource} {boost : Bool} (h : BayLawful req b) (hs : b.serves q) :
    BayLawful (some (Entry.fresh q boost)) b.awaits :=
  (h.enterable (by simp [hs.1])).lawful rfl rfl rfl (by simp [BayContext.awaits]) (by simp [BayContext.awaits])
    (by simp [BayContext.awaits]) (by rintro e ⟨⟩; exact hs.2) (fun _ => h.shut (.inr hs.1)) (by simp [BayContext.awaits])

theorem BayHalts.awaits {b : BayContext} (h : BayHalts b) (hs : b.state = .active) : BayHalts b.awaits :=
  (h.unhalted (by simp [hs]) (by simp [hs])).halts rfl rfl (.inr rfl)

theorem BayLawful.of_follows {e f : Option Entry} {b : BayContext} (h : BayLawful e b) (hf : EntryFollows e f) : BayLawful f b where
  request := by rw [hf.isSome]; exact h.request
  entry x hx := by
    have hres := hf.resource
    obtain ⟨g, rfl, hg⟩ := hf
    obtain ⟨y, hy, rfl⟩ := Option.map_eq_some_iff.mp hx
    rw [(hg y).1]
    exact h.entry y hy
  idle := h.idle
  source := h.source
  index := h.index
  record := h.record
  shut := h.shut
  held := h.held

namespace State

variable {s t : State} {k : Bay}

theorem holdersActive_iff : s.HoldersActive ↔
    (∀ k q, s.holds k q = true → (s.bay k).serves q) ∧ ∀ a ∈ s.arb.slotA, ∀ b ∈ s.arb.slotB, a.bay ≠ b.bay := by
  constructor
  · intro h
    exact ⟨fun k q hq => h.of_holds hq, h.2.2⟩
  · rintro ⟨h, hdistinct⟩
    refine ⟨fun k hk => ?_, fun k hk => ?_, hdistinct⟩
    · obtain ⟨ha, hr⟩ := h k .steam hk
      exact ⟨ha, (StepKind.resource_eq_steam _).mp hr⟩
    · obtain ⟨ha, hr⟩ := h k .dry hk
      exact ⟨ha, (StepKind.resource_eq_dry _).mp hr⟩

/-- List, table and bays agree (R42, R51, R52). -/
structure ListLawful (s : State) : Prop where
  bays     : ∀ k : Bay, BayLawful (s.arb.requests.get k) (s.bay k)
  holders  : ∀ k q, s.holds k q = true → (s.bay k).serves q
  distinct : ∀ a ∈ s.arb.slotA, ∀ b ∈ s.arb.slotB, a.bay ≠ b.bay

theorem ListLawful.holdersActive (h : s.ListLawful) : s.HoldersActive := holdersActive_iff.mpr ⟨h.holders, h.distinct⟩

theorem baysLawful_iff : s.BaysLawful ↔ s.ListLawful ∧ s.LibrarySound := by
  constructor
  · rintro ⟨hreq, hhold, hprog, hdoor, hlib⟩
    obtain ⟨hholders, hdistinct⟩ := holdersActive_iff.mp hhold
    refine ⟨⟨fun k => ?_, hholders, hdistinct⟩, hlib⟩
    obtain ⟨hr, he⟩ := hreq k
    obtain ⟨hi, hs, hx, hp⟩ := hprog k
    obtain ⟨hshut, hheld⟩ := hdoor k
    exact ⟨hr, he, hi, hs, hx, hp, hshut, hheld⟩
  · rintro ⟨h, hlib⟩
    exact { requests := fun k => ⟨(h.bays k).request, (h.bays k).entry⟩
            holders := h.holdersActive
            programs := fun k => ⟨(h.bays k).idle, (h.bays k).source, (h.bays k).index, (h.bays k).record⟩
            doors := fun k => ⟨(h.bays k).shut, (h.bays k).held⟩
            library := hlib }

/-! ## What a bay holds -/

theorem holds_congr (hrow : t.arb.steamRow = s.arb.steamRow) (hA : t.arb.slotA.map (·.bay) = s.arb.slotA.map (·.bay))
    (hB : t.arb.slotB.map (·.bay) = s.arb.slotB.map (·.bay)) (j : Bay) (q : Resource) : t.holds j q = s.holds j q := by
  cases q with
  | steam => simp [holds, Arbiter.holdsSteam, hrow]
  | dry => simp [holds, Arbiter.holdsDry, slotHeldBy_of_bay hA, slotHeldBy_of_bay hB]

theorem distinct_congr (hA : t.arb.slotA.map (·.bay) = s.arb.slotA.map (·.bay))
    (hB : t.arb.slotB.map (·.bay) = s.arb.slotB.map (·.bay)) (h : ∀ a ∈ s.arb.slotA, ∀ b ∈ s.arb.slotB, a.bay ≠ b.bay) :
    ∀ a ∈ t.arb.slotA, ∀ b ∈ t.arb.slotB, a.bay ≠ b.bay := by
  intro a ha b hb
  rw [Option.mem_def] at ha hb
  rw [ha] at hA
  rw [hb] at hB
  obtain ⟨a', ha', haa⟩ := Option.map_eq_some_iff.mp hA.symm
  obtain ⟨b', hb', hbb⟩ := Option.map_eq_some_iff.mp hB.symm
  intro hab
  exact h a' ha' b' hb' (haa.trans (hab.trans hbb.symm))

/-- The agreement speaks of bays, entries and holders alone. -/
theorem ListLawful.of_table (h : s.ListLawful) (hbays : ∀ j, t.bay j = s.bay j)
    (hreq : ∀ j, EntryFollows (s.arb.requests.get j) (t.arb.requests.get j)) (hrow : t.arb.steamRow = s.arb.steamRow)
    (hA : t.arb.slotA.map (·.bay) = s.arb.slotA.map (·.bay)) (hB : t.arb.slotB.map (·.bay) = s.arb.slotB.map (·.bay)) :
    t.ListLawful where
  bays j := by rw [hbays]; exact (h.bays j).of_follows (hreq j)
  holders j q hq := by
    rw [holds_congr hrow hA hB] at hq
    rw [hbays]
    exact h.holders j q hq
  distinct := distinct_congr hA hB h.distinct

/-! ## A bay leaves the plant -/

/-- What a compressor does when a holder has gone, by release or by revocation (R114, R116). -/
def DryEnds (d d' : DryingCircuit) (st : Settings) (remaining : Nat) : Prop :=
  d' = d.onRelease st remaining ∨ d' = d.onRevoke st remaining

/-- Between `s` and `t` bay `k` has given up what it held, by release or by revocation, its place in the list being `req`. -/
structure Leaves (s t : State) (k : Bay) (req : Option Entry) : Prop where
  others  : ∀ j, j ≠ k → t.bay j = s.bay j ∧ t.air j = s.air j ∧ t.arb.requests.get j = s.arb.requests.get j
  request : t.arb.requests.get k = req
  row     : t.arb.steamRow = if s.arb.holdsSteam k then none else s.arb.steamRow
  steam   : t.steam = if s.arb.holdsSteam k then s.steam.endGrant s.arb.settings k else s.steam
  slots   : (t.arb.slotA, t.arb.slotB) = s.slotsLeft k
  dry     : if s.endsDry k then DryEnds s.dry { t.dry with air := s.dry.air } s.arb.settings t.arb.dryHolders
    else { t.dry with air := s.dry.air } = s.dry
  air     : t.air k = demanded (t.bay k)
    (if s.endsDry k then { (s.air k).closeDamper with reheater := false } else s.air k)
  water   : t.water = s.water

theorem LetsGo.leaves {req : Option Entry} {raise : NoticeSet → NoticeSet} (h : s.LetsGo t k req raise) : s.Leaves t k req where
  others := h.others
  request := h.request
  row := h.row
  steam := h.steam
  slots := h.slots
  dry := by
    have hd := h.dry
    split at hd
    next he => rw [if_pos he]; exact .inl hd
    next he => rw [if_neg he]; exact hd
  air := h.air
  water := congrArg Stable.water h.stable

theorem RevokesDry.leaves {e : Entry} (h : s.RevokesDry t k e) (hs : s.arb.holdsSteam k = false) (hd : s.arb.holdsDry k = true) :
    s.Leaves t k (some e) := by
  have he : s.endsDry k = true := by simp [endsDry, hs, hd]
  exact { others := h.others, request := h.request
          row := by simp [hs, h.row]
          steam := by simp [hs, h.steam]
          slots := by simp [slotsLeft, he, h.slots]
          dry := by rw [if_pos he]; exact .inr h.dry
          air := by rw [if_pos he]; exact h.air
          water := congrArg Stable.water h.stable }

theorem slotsLeft_mem (h : (t.arb.slotA, t.arb.slotB) = s.slotsLeft k) :
    (∀ a ∈ t.arb.slotA, a ∈ s.arb.slotA) ∧ ∀ b ∈ t.arb.slotB, b ∈ s.arb.slotB := by
  have hsub (d : Option DrySlot) : ∀ a ∈ Arbiter.slotWithout k d, a ∈ d := by
    unfold Arbiter.slotWithout
    split
    next => simp
    next => exact fun _ => id
  unfold slotsLeft at h
  split at h
  next => obtain ⟨hA, hB⟩ := Prod.mk.inj h; rw [hA, hB]; exact ⟨hsub _, hsub _⟩
  next => obtain ⟨hA, hB⟩ := Prod.mk.inj h; rw [hA, hB]; exact ⟨fun _ => id, fun _ => id⟩

theorem slotHeldBy_iff (j : Bay) (d : Option DrySlot) : Arbiter.slotHeldBy j d = true ↔ d.map (·.bay) = some j := by
  cases d <;> simp [Arbiter.slotHeldBy]

theorem slotWithout_self (k : Bay) (d : Option DrySlot) : Arbiter.slotHeldBy k (Arbiter.slotWithout k d) = false := by
  unfold Arbiter.slotWithout
  split
  next => rfl
  next h => simpa using h

/-- A bay uses one resource at most. -/
theorem ListLawful.holds_one (h : s.ListLawful) (k : Bay) : ¬(s.arb.holdsSteam k = true ∧ s.arb.holdsDry k = true) := by
  rintro ⟨hs, hd⟩
  cases BayContext.serves_unique (h.holders k .steam hs) (h.holders k .dry hd)

theorem Leaves.holds {req : Option Entry} (h : s.Leaves t k req) (hone : ¬(s.arb.holdsSteam k = true ∧ s.arb.holdsDry k = true))
    (j : Bay) (q : Resource) : t.holds j q = (s.holds j q && decide (j ≠ k)) := by
  by_cases hjk : j = k
  · subst hjk
    cases q with
    | steam =>
      have hr := h.row
      by_cases hs : s.arb.holdsSteam j = true
      · rw [if_pos hs] at hr
        simp [holds, Arbiter.holdsSteam, hr]
      · rw [if_neg hs] at hr
        simpa [holds, Arbiter.holdsSteam, hr] using hs
    | dry =>
      have hsl := h.slots
      by_cases he : s.endsDry j = true
      · rw [slotsLeft, if_pos he] at hsl
        obtain ⟨hA, hB⟩ := Prod.mk.inj hsl
        simp [holds, Arbiter.holdsDry, hA, hB, slotWithout_self]
      · rw [slotsLeft, if_neg he] at hsl
        obtain ⟨hA, hB⟩ := Prod.mk.inj hsl
        have hno : s.arb.holdsDry j = false := by
          cases hs : s.arb.holdsSteam j <;> cases hd : s.arb.holdsDry j <;> simp_all [endsDry]
        simp only [holds, Arbiter.holdsDry, hA, hB]
        simpa [Arbiter.holdsDry] using hno
  · simp only [ne_eq, hjk, not_false_eq_true, decide_true, Bool.and_true]
    cases q with
    | steam =>
      have hr := h.row
      split at hr
      next hs =>
        have hk : s.arb.steamRow = some k := by simpa [Arbiter.holdsSteam] using hs
        simp [State.holds, Arbiter.holdsSteam, hr, hk, Ne.symm hjk]
      next => simp [State.holds, Arbiter.holdsSteam, hr]
    | dry =>
      have hsl := h.slots
      unfold slotsLeft at hsl
      split at hsl
      next => obtain ⟨hA, hB⟩ := Prod.mk.inj hsl; simp [State.holds, Arbiter.holdsDry, hA, hB, slotWithout_other hjk]
      next => obtain ⟨hA, hB⟩ := Prod.mk.inj hsl; simp [State.holds, Arbiter.holdsDry, hA, hB]

theorem ListLawful.leaves {req : Option Entry} (h : s.ListLawful) (hl : s.Leaves t k req) (hlaw : BayLawful req (t.bay k)) :
    t.ListLawful where
  bays j := by
    by_cases hj : j = k
    · rw [hj, hl.request]; exact hlaw
    · obtain ⟨hb, -, hr⟩ := hl.others j hj
      rw [hb, hr]; exact h.bays j
  holders j q hq := by
    rw [hl.holds (h.holds_one k)] at hq
    simp only [Bool.and_eq_true, decide_eq_true_eq] at hq
    rw [(hl.others j hq.2).1]
    exact h.holders j q hq.1
  distinct a ha b hb :=
    have ⟨hA, hB⟩ := slotsLeft_mem hl.slots
    h.distinct a (hA a ha) b (hB b hb)

/-! ## A revocation (R28, R68) -/

/-- The STEAM holder leaves its row and asks anew. -/
theorem ListLawful.revokeSteam (h : s.ListLawful) (hk : s.arb.steamRow = some k) :
    s.Leaves (s.revokeSteam k) k (some (Entry.fresh .steam false)) ∧ (s.revokeSteam k).bay k = (s.bay k).awaits ∧
      (s.bay k).serves .steam := by
  have hholds : s.arb.holdsSteam k = true := by simp [Arbiter.holdsSteam, hk]
  have hserves := h.holders k .steam hholds
  obtain ⟨r, hr, hres⟩ := BayContext.serves_step hserves
  have hkind : r.kind = .steam := Option.some.inj ((StepKind.resource_eq_steam (some r.kind)).mp hres)
  obtain ⟨hl, -, hb⟩ := revokeSteam_spec s hr hkind hholds
  exact ⟨hl.leaves, hb, hserves⟩

theorem ListLawful.revokeDry (h : s.ListLawful) (hk : s.arb.holdsDry k = true) :
    (∃ boost, s.Leaves (s.revokeDry k) k (some (Entry.fresh .dry boost))) ∧ (s.revokeDry k).bay k = (s.bay k).awaits ∧
      (s.bay k).serves .dry := by
  have hserves := h.holders k .dry hk
  obtain ⟨r, hr, hres⟩ := BayContext.serves_step hserves
  have hkind : r.kind = .dry := Option.some.inj ((StepKind.resource_eq_dry (some r.kind)).mp hres)
  have hno : s.arb.holdsSteam k = false := by simpa using fun hs => h.holds_one k ⟨hs, hk⟩
  obtain ⟨hrev, -⟩ := revokeDry_spec s hr hkind
  exact ⟨⟨r.boost, hrev.leaves hno hk⟩, hrev.bay, hserves⟩

/-! ## Each move keeps the agreement -/

theorem ListLawful.afterRevokeSteam (h : s.ListLawful) (hk : s.arb.steamRow = some k) : (s.revokeSteam k).ListLawful := by
  obtain ⟨hl, hb, hs⟩ := h.revokeSteam hk
  exact h.leaves hl (by rw [hb]; exact (h.bays k).awaits hs)

theorem ListLawful.afterRevokeDry (h : s.ListLawful) (hk : s.arb.holdsDry k = true) : (s.revokeDry k).ListLawful := by
  obtain ⟨⟨boost, hl⟩, hb, hs⟩ := h.revokeDry hk
  exact h.leaves hl (by rw [hb]; exact (h.bays k).awaits hs)

/-- The slots of the full tank: slot A is empty after its holder's revocation, and slot B is as it was. -/
theorem revokeSlot_slotA (h : ∀ a ∈ s.arb.slotA, ∀ b ∈ s.arb.slotB, a.bay ≠ b.bay) :
    (s.revokeSlot s.arb.slotA).arb.slotA = none ∧ (s.revokeSlot s.arb.slotA).arb.slotB = s.arb.slotB := by
  cases hA : s.arb.slotA with
  | none => exact ⟨hA, rfl⟩
  | some a =>
    obtain ⟨hslotA, hslotB⟩ := revokeDry_slots s a.bay
    refine ⟨by simp [revokeSlot, hslotA, hA, Arbiter.slotWithout, Arbiter.slotHeldBy], ?_⟩
    cases hB : s.arb.slotB with
    | none => simp [revokeSlot, hslotB, hB, Arbiter.slotWithout, Arbiter.slotHeldBy]
    | some b => simp [revokeSlot, hslotB, hB, Arbiter.slotWithout, Arbiter.slotHeldBy, (h a hA b hB).symm]

theorem revokeSlot_both (h : ∀ a ∈ s.arb.slotA, ∀ b ∈ s.arb.slotB, a.bay ≠ b.bay) :
    ((s.revokeSlot s.arb.slotA).revokeSlot s.arb.slotB).arb.slotA = none ∧
      ((s.revokeSlot s.arb.slotA).revokeSlot s.arb.slotB).arb.slotB = none := by
  obtain ⟨hA, hB⟩ := revokeSlot_slotA h
  cases hb : s.arb.slotB with
  | none => rw [hb] at hB; exact ⟨hA, hB⟩
  | some b =>
    obtain ⟨hslotA, hslotB⟩ := revokeDry_slots (s.revokeSlot s.arb.slotA) b.bay
    rw [hA] at hslotA
    rw [hB, hb] at hslotB
    exact ⟨hslotA, hslotB.trans (by simp [Arbiter.slotWithout, Arbiter.slotHeldBy])⟩

/-- What the revocation of a slot's holder keeps, that of each DRY holder keeping it. -/
theorem revokeSlot_keeps {P : State → Prop} (hP : ∀ k, s.arb.holdsDry k = true → P s → P (s.revokeDry k)) (hs : P s)
    {d : Option DrySlot} (hd : d = s.arb.slotA ∨ d = s.arb.slotB) : P (s.revokeSlot d) := by
  cases d with
  | none => exact hs
  | some d =>
    refine hP d.bay ?_ hs
    rcases hd with hd | hd <;> simp [Arbiter.holdsDry, Arbiter.slotHeldBy, ← hd]

/-- What the end of all drying keeps: the revocations of DRY holders, a forced stop with no holder, the mark and the notice. -/
theorem onTankFull_keeps {P : State → Prop} (hrevoke : ∀ {s : State} {k : Bay}, s.arb.holdsDry k = true → P s → P (s.revokeDry k))
    (hstop : ∀ {s : State}, s.arb.slotA = none → s.arb.slotB = none → P s → P s.forceStop)
    (howe : ∀ {s : State}, P s → P (s.mapArb Arbiter.owe)) (hraise : ∀ {s : State}, P s → P (s.raisePlant .tankFull))
    (hdistinct : ∀ a ∈ s.arb.slotA, ∀ b ∈ s.arb.slotB, a.bay ≠ b.bay) (hs : P s) : P s.onTankFull := by
  obtain ⟨hA, hB⟩ := revokeSlot_slotA hdistinct
  have hfirst : P (s.revokeSlot s.arb.slotA) := revokeSlot_keeps (fun _ => hrevoke) hs (.inl rfl)
  have hsecond : P ((s.revokeSlot s.arb.slotA).revokeSlot s.arb.slotB) :=
    revokeSlot_keeps (fun _ => hrevoke) hfirst (.inr hB.symm)
  obtain ⟨hA', hB'⟩ := revokeSlot_both hdistinct
  exact hraise (howe (hstop hA' hB' hsecond))

end State
end Sys2Proof.Machine

/-!
PROOFS. Each move keeps list, table and bays in agreement.
-/

namespace Sys2Proof.Machine.State

variable {s t : State} {k : Bay}

/-! ## A grant (R51, R66) -/

/-- A DRY grant fills slot A, or slot B where A is held; its reheat is ON only where one reheater more fits (R51, R86). -/
theorem GrantsInPass.slots_fit {e : Entry} {q : List Bay} (h : s.GrantsInPass t k e q) (hr : e.resource = .dry) :
    ∃ r, (r = .on → s.arb.draw s.dry.comp + s.addedDraw e + s.arb.settings.reheaterDraw ≤ s.arb.budget) ∧
      (s.arb.slotA = none ∧ t.arb.slotA = some ⟨k, r⟩ ∧ t.arb.slotB = s.arb.slotB ∨
        s.arb.slotA ≠ none ∧ t.arb.slotA = s.arb.slotA ∧ t.arb.slotB = some ⟨k, r⟩) := by
  obtain ⟨-, -, -, hslots, -⟩ := h.dry hr
  obtain ⟨hfree, htaken⟩ := hslots _ rfl
  refine ⟨_, fun hon => ?_, (em (s.arb.slotA = none)).imp (fun hA => ⟨hA, hfree hA⟩) fun hA => ⟨hA, htaken hA⟩⟩
  split at hon
  next => cases hon
  next =>
    split at hon
    next hfit => exact hfit
    next => cases hon

theorem GrantsInPass.slots {e : Entry} {q : List Bay} (h : s.GrantsInPass t k e q) (hr : e.resource = .dry) :
    ∃ r, s.arb.slotA = none ∧ t.arb.slotA = some ⟨k, r⟩ ∧ t.arb.slotB = s.arb.slotB ∨
      s.arb.slotA ≠ none ∧ t.arb.slotA = s.arb.slotA ∧ t.arb.slotB = some ⟨k, r⟩ :=
  have ⟨r, _, hslots⟩ := h.slots_fit hr
  ⟨r, hslots⟩

/-- A grant makes its bay the holder and takes nobody's hold away. -/
theorem GrantsInPass.holds {e : Entry} {q : List Bay} (h : s.GrantsInPass t k e q) {j : Bay} {r : Resource}
    (hj : t.holds j r = true) : j = k ∧ r = e.resource ∨ s.holds j r = true := by
  cases hr : e.resource with
  | steam =>
    obtain ⟨hrow, hA, hB, -⟩ := h.steam hr
    cases r with
    | steam =>
      have hk : k = j := by simpa [State.holds, Arbiter.holdsSteam, hrow] using hj
      exact .inl ⟨hk.symm, rfl⟩
    | dry => right; simpa [State.holds, Arbiter.holdsDry, hA, hB] using hj
  | dry =>
    obtain ⟨hrow, -⟩ := h.dry hr
    cases r with
    | steam => right; simpa [State.holds, Arbiter.holdsSteam, hrow] using hj
    | dry =>
      obtain ⟨rh, ⟨-, hA, hB⟩ | ⟨-, hA, hB⟩⟩ := h.slots hr
      · simp only [State.holds, Arbiter.holdsDry, hA, hB, Arbiter.slotHeldBy, Bool.or_eq_true, decide_eq_true_eq] at hj ⊢
        rcases hj with hj | hj
        · exact .inl ⟨hj.symm, trivial⟩
        · exact .inr (.inr hj)
      · simp only [State.holds, Arbiter.holdsDry, hA, hB, Arbiter.slotHeldBy, Bool.or_eq_true, decide_eq_true_eq] at hj ⊢
        rcases hj with hj | hj
        · exact .inr (.inl hj)
        · exact .inl ⟨hj.symm, trivial⟩

/-- A bay that a grant may reach holds nothing yet. -/
theorem ListLawful.waiting_holds (h : s.ListLawful) {f : Entry} (hf : s.arb.requests.get k = some f) (q : Resource) :
    s.holds k q = false := by
  have ha : (s.bay k).state = .await := (h.bays k).request.mp (by simp [hf])
  have hno : ¬s.holds k q = true := fun hq => absurd (h.holders k q hq).1 (by simp [ha])
  simpa using hno

/-- A DRY entry that is eligible finds a slot free. -/
theorem eligible_slot {e : Entry} (hel : s.eligible k e = true) (hr : e.resource = .dry) :
    s.arb.slotA = none ∨ s.arb.slotB = none := by
  simp [eligible, hr] at hel
  exact hel.2.1

theorem ListLawful.grantSpec (h : s.ListLawful) {e f : Entry} (hel : s.eligible k e = true)
    (hf : s.arb.requests.get k = some f) : s.GrantsInPass (s.grantInPass k e []) k e [] :=
  grantInPass_spec s k e [] List.nodup_nil (h.waiting_holds hf .dry) (eligible_slot hel)

theorem BayLawful.granted {req : Option Entry} {b : BayContext} (h : BayLawful req b) (ha : b.state = .await) :
    BayLawful none { b with state := .active, waitElapsed := 0, overheatRun := 0, limitReached := false, waitReached := false } :=
  (h.enterable (by simp [ha])).lawful rfl rfl rfl (by simp) (by simp) (by simp) (by simp) (fun _ => h.shut (.inl ha)) (by simp)

theorem ListLawful.grant (h : s.ListLawful) {e f : Entry} (hel : s.eligible k e = true) (hf : s.arb.requests.get k = some f)
    (hres : f.resource = e.resource) : (s.grantInPass k e []).ListLawful := by
  have hspec := h.grantSpec hel hf
  have ha : (s.bay k).state = .await := (h.bays k).request.mp (by simp [hf])
  refine ⟨fun j => ?_, fun j q hq => ?_, fun a hA b hB => ?_⟩
  · rw [hspec.requests j, hspec.bays j]
    split
    next => exact BayLawful.granted (h.bays k) ha
    next => simpa using h.bays j
  · rcases hspec.holds hq with ⟨rfl, rfl⟩ | hold
    · rw [hspec.bays j, if_pos rfl]
      exact ⟨rfl, by rw [← hres]; exact (h.bays j).entry f hf⟩
    · have hne : j ≠ k := by rintro rfl; rw [h.waiting_holds hf q] at hold; cases hold
      rw [hspec.bays j, if_neg hne]
      exact h.holders j q hold
  · rw [Option.mem_def] at hA hB
    have hno := h.waiting_holds hf .dry
    simp only [State.holds, Arbiter.holdsDry, Bool.or_eq_false_iff] at hno
    have hfree (d : Option DrySlot) (hd : Arbiter.slotHeldBy k d = false) : ∀ x ∈ d, x.bay ≠ k := by
      rintro x ⟨⟩
      simpa [Arbiter.slotHeldBy] using hd
    cases hr : e.resource with
    | steam =>
      obtain ⟨-, hsA, hsB, -⟩ := hspec.steam hr
      exact h.distinct a (by rw [← hsA]; exact hA) b (by rw [← hsB]; exact hB)
    | dry =>
      obtain ⟨rh, ⟨-, hsA, hsB⟩ | ⟨-, hsA, hsB⟩⟩ := hspec.slots hr
      · rw [hsA] at hA
        obtain rfl := Option.some.inj hA
        exact (hfree _ hno.2 b (by rw [← hsB]; exact hB)).symm
      · rw [hsB] at hB
        obtain rfl := Option.some.inj hB
        exact hfree _ hno.1 a (by rw [← hsA]; exact hA)

theorem ListLawful.setReheat (h : s.ListLawful) (k : Bay) (r : Reheat) : (s.setReheat k r).ListLawful :=
  h.of_table (fun j => by simp [bay]) (fun j => by rw [setReheat_requests]; exact .refl _)
    (by simp [State.setReheat, Arbiter.setReheat, refreshDraw])
    (by rw [setReheat_slotA]; exact slotWith_bay ..) (by rw [setReheat_slotB]; exact slotWith_bay ..)

theorem listLawful_walk : WalkStable ListLawful fun _ _ => True where
  entries hr h := h.of_table (fun _ => rfl) hr rfl rfl rfl
  off _ h := h.setReheat ..
  on _ _ h := h.setReheat ..
  fits _ _ := trivial
  shed _ _ := trivial
  passed _ := trivial
  grant h _ hel hf hres := h.grant hel hf hres

theorem ListLawful.evaluate (h : s.ListLawful) : s.evaluate.ListLawful :=
  listLawful_walk.walk 5 (h.of_table (t := s.mapArb Arbiter.evaluating) (fun _ => rfl) (fun _ => .refl _) rfl rfl rfl)

/-! ## The moves -/

theorem resetAll_list (cause : ResetCause) (pins : Pins) (s : State) : (s.resetAll cause pins).ListLawful := by
  have hbay (j : Bay) : (s.resetAll cause pins).bay j = BayContext.afterReset (pins.lines.doorHigh.get j) := PerBay.get_map ..
  have hreq (j : Bay) : (s.resetAll cause pins).arb.requests.get j = none := PerBay.get_fill ..
  refine ⟨fun j => ?_, fun j q hq => ?_, ?_⟩
  · rw [hbay, hreq]
    constructor <;> simp [BayContext.afterReset]
  · cases q <;> cases hq
  · rintro a ⟨⟩

theorem ListLawful.onTankFull (h : s.ListLawful) : s.onTankFull.ListLawful :=
  onTankFull_keeps (fun hk h => h.afterRevokeDry hk)
    (fun _ _ h => h.of_table (fun _ => rfl) (fun _ => .refl _) rfl rfl rfl)
    (fun h => h.of_table (fun _ => rfl) (fun _ => .refl _) rfl rfl rfl)
    (fun h => h.of_table (fun _ => rfl) (fun _ => .refl _) rfl rfl rfl) h.distinct h

theorem ListLawful.tripGenerator (h : s.ListLawful) (cause : TripCause) : (s.tripGenerator cause).ListLawful := by
  have htripped : (s.mapSteam (SteamUnit.trip s.arb.settings cause s.arb.steamRow)).ListLawful :=
    h.of_table (fun _ => rfl) (fun _ => .refl _) rfl rfl rfl
  unfold State.tripGenerator
  refine ListLawful.of_table (s := (match s.arb.steamRow with
    | some k => (s.mapSteam (SteamUnit.trip s.arb.settings cause s.arb.steamRow)).revokeSteam k
    | none => s.mapSteam (SteamUnit.trip s.arb.settings cause s.arb.steamRow))) ?_
    (fun _ => rfl) (fun _ => .refl _) rfl rfl rfl
  split
  next k hk => exact htripped.afterRevokeSteam hk
  next => exact htripped

theorem ListLawful.contexts {bs : PerBay BayContext} (h : s.ListLawful)
    (hf : ∀ k : Bay, ContextFollows (s.arb.requests.get k) (s.bay k) (bs.get k)) : ({ s with bays := bs } : State).ListLawful where
  bays j := (hf j).laws (h.bays j)
  holders j q hq := by
    have hj := h.holders j q (by cases q <;> exact hq)
    exact ⟨(hf j).state.trans hj.1, by
      change (bs.get j).currentKind.bind _ = _
      rw [(hf j).kind]; exact hj.2⟩
  distinct := h.distinct

theorem ListLawful.onlyBay {raise : NoticeSet → NoticeSet} (h : s.ListLawful) (ho : s.OnlyBay t k raise) (hk : s.BayFollows t k) :
    t.ListLawful where
  bays j := by
    by_cases hj : j = k
    · rw [hj]; exact hk.laws
    · rw [(ho.others j hj).1, ho.arb]; exact h.bays j
  holders j q hq := by
    have hq' : s.holds j q = true := by
      cases q <;> simpa [State.holds, ho.arb] using hq
    by_cases hj : j = k
    · subst hj; exact hk.holders q hq'
    · rw [(ho.others j hj).1]; exact h.holders j q hq'
  distinct := by rw [ho.arb]; exact h.distinct

theorem withdraw_of_none (h : s.arb.requests.get k = none) : s.withdraw k = s := by
  simp [withdraw, mapArb, Arbiter.withdraw, h]

theorem move_list (m : Move s t) (h : s.ListLawful) (hlib : s.LibrarySound) : t.ListLawful := by
  cases m with
  | beside _ hbays harb =>
    exact h.of_table (fun j => by rw [bay, hbays]; rfl) (fun j => by rw [harb]; exact .refl _) (by rw [harb]) (by rw [harb]) (by rw [harb])
  | reset cause pins => exact resetAll_list cause pins s
  | rules a htable =>
    obtain ⟨hrow, hA, hB, hreq⟩ := by simpa only [Prod.mk.injEq] using htable
    exact h.of_table (fun _ => rfl) (fun j => by simp only [hreq]; exact .refl _) hrow (by simp only [hA]) (by simp only [hB])
  | settings => exact h.of_table (fun _ => rfl) (fun _ => .refl _) rfl rfl rfl
  | entries r hr => exact h.of_table (fun _ => rfl) hr rfl rfl rfl
  | contexts bs hf => exact h.contexts hf
  | steam => exact h.of_table (fun _ => rfl) (fun _ => .refl _) rfl rfl rfl
  | dry => exact h.of_table (fun _ => rfl) (fun _ => .refl _) rfl rfl rfl
  | minOff => exact h.of_table (fun _ => rfl) (fun _ => .refl _) rfl rfl rfl
  | forceStop => exact h.of_table (fun _ => rfl) (fun _ => .refl _) rfl rfl rfl
  | water => exact h.of_table (fun _ => rfl) (fun _ => .refl _) rfl rfl rfl
  | tankFull w =>
    exact ListLawful.onTankFull (h.of_table (t := { s with water := w }) (fun _ => rfl) (fun _ => .refl _) rfl rfl rfl)
  | letsGo k req raise hl _ hlaws => exact h.leaves hl.leaves (hlaws (h.bays k))
  | onlyBay k raise ho _ hbay => exact h.onlyBay ho (hbay (h.bays k) h.holdersActive hlib)
  | dropEntry k hk => rw [withdraw_of_none (hk (h.bays k) h.holdersActive)]; exact h
  | revokeSteam k hk => exact h.afterRevokeSteam hk
  | revokeDry k hk => exact h.afterRevokeDry hk
  | trip cause => exact h.tripGenerator cause
  | reheatOff k r => exact h.setReheat k r
  | evaluate => exact h.evaluate

theorem move_bays (m : Move s t) (h : s.BaysLawful) : t.BaysLawful := by
  obtain ⟨hlist, hlib⟩ := baysLawful_iff.mp h
  exact baysLawful_iff.mpr ⟨move_list m hlist hlib, (move_beside m).library hlib⟩

theorem withBudget_bays (w : Nat) (h : s.BaysLawful) : (s.withBudget w).BaysLawful := by
  obtain ⟨hlist, hlib⟩ := baysLawful_iff.mp h
  exact baysLawful_iff.mpr ⟨hlist.of_table (fun _ => rfl) (fun _ => .refl _) rfl rfl rfl, .of_library rfl hlib⟩

theorem after_bays (i : Instr) (s : State) (h : s.BaysLawful) : (s.after i).BaysLawful := by
  obtain m | ⟨w, m⟩ := after_cases i s
  · exact m.keeps move_bays h
  · exact m.keeps move_bays (withBudget_bays w h)

end Sys2Proof.Machine.State

namespace Sys2Proof.Machine

/-- Settles O59, move by move. -/
theorem everyStepKeepsListAndTableWithTheBays : Obligations.EveryStepKeepsListAndTableWithTheBays := fun _ _ hs h =>
  step_keeps (P := State.BaysLawful)
    (fun _ _ ⟨hr, hh, hp, hd, hl⟩ => ⟨hr, hh, hp, hd, hl⟩) State.after_bays hs h

end Sys2Proof.Machine

/-!
PROOFS. The laws of the plant lines: the compressor by the number of DRY holders, a bay's air handling by what it holds and demands,
and the steam unit by its row; what the grants and their ends make of each (R25, R92 to R101, R108, R112 to R126).
-/

namespace Sys2Proof.Machine

/-! ## The compressor (R112 to R117) -/

/-- The compressor with `n` DRY holders. -/
structure CompressorLawful (n : Nat) (d : DryingCircuit) : Prop where
  held  : 0 < n ↔ d.comp = .running ∨ d.comp = .startWait
  speed : d.speed = match d.comp with
    | .off | .startWait => 0
    | .tail => 60
    | .running => if n = 2 then 100 else 60

namespace CompressorLawful

variable {n : Nat} {d : DryingCircuit}

theorem forcedStop (h : CompressorLawful n d) (st : Settings) : CompressorLawful 0 (d.forcedStop st) := by
  have hs := h.speed
  cases hc : d.comp
  case startWait => rw [forcedStop_startWait d st hc]; exact ⟨by simp, rfl⟩
  case off => rw [forcedStop_off d st hc]; rw [hc] at hs; exact ⟨by simp [hc], by rw [hc]; exact hs⟩
  case running => rw [forcedStop_running d st (.inl hc)]; exact ⟨by simp, rfl⟩
  case tail => rw [forcedStop_running d st (.inr hc)]; exact ⟨by simp, rfl⟩

theorem onGrant (h : CompressorLawful n d) (hn : n ≤ 1) (st : Settings) : CompressorLawful (n + 1) (d.onGrant st) := by
  obtain ⟨hheld, hspeed⟩ := h
  cases hc : d.comp <;> rw [hc] at hheld hspeed
  case off =>
    obtain rfl : n = 0 := by simpa using hheld
    by_cases hm : d.minOff = 0
    · rw [onGrant_off d st hc hm]; exact ⟨by simp, rfl⟩
    · rw [onGrant_wait d st hc hm]; exact ⟨by simp, hspeed⟩
  case startWait => rw [onGrant_startWait d st hc]; exact ⟨by simp [hc], by rw [hc]; exact hspeed⟩
  case running =>
    obtain rfl : n = 1 := by have : 0 < n := hheld.mpr (.inl rfl); omega
    rw [onGrant_running d st hc]; exact ⟨by simp [hc], by simp [hc]⟩
  case tail =>
    obtain rfl : n = 0 := by simpa using hheld
    rw [onGrant_tail d st hc]; exact ⟨by simp, rfl⟩

theorem onRelease (h : CompressorLawful (n + 1) d) (hn : n ≤ 1) (st : Settings) : CompressorLawful n (d.onRelease st n) := by
  obtain ⟨hheld, hspeed⟩ := h
  have hon : d.comp = .running ∨ d.comp = .startWait := hheld.mp (Nat.succ_pos n)
  obtain rfl | rfl : n = 0 ∨ n = 1 := by omega
  · rcases hon with hc | hc
    · simp only [DryingCircuit.onRelease, hc, if_true]
      split
      next => exact ⟨by simp [DryingCircuit.stop], rfl⟩
      next => exact ⟨by simp, rfl⟩
    · rw [(onRelease_startWait d st hc).2]; exact ⟨by simp, rfl⟩
  · rcases hon with hc | hc
    · rw [onRelease_one d st hc]; exact ⟨by simp [hc], by simp [hc]⟩
    · rw [(onRelease_startWait d st hc).1]; rw [hc] at hspeed; exact ⟨by simp [hc], by rw [hc]; exact hspeed⟩

theorem dryEnds {d' : DryingCircuit} (h : CompressorLawful (n + 1) d) (hn : n ≤ 1) {st : Settings} (he : State.DryEnds d d' st n) :
    CompressorLawful n d' := by
  rcases he with rfl | rfl
  · exact h.onRelease hn st
  · unfold DryingCircuit.onRevoke
    split
    next hz => subst hz; exact h.forcedStop st
    next => exact h.onRelease hn st

theorem minOffExpiry (h : CompressorLawful n d) (hc : d.comp = .startWait) (st : Settings) :
    CompressorLawful n (d.minOffExpiry st n) where
  held := by simpa [hc, DryingCircuit.minOffExpiry, DryingCircuit.startRunning] using h.held
  speed := rfl

/-- The law speaks of state and speed alone, not of the air handling. -/
theorem of_withAir {d' : DryingCircuit} {a : PerBay AirBay} (h : CompressorLawful n d) (he : { d' with air := a } = d) :
    CompressorLawful n d' := by
  subst he
  exact ⟨h.held, h.speed⟩

end CompressorLawful

/-! ## The steam unit by its row (R92, R94, R96, R97, R100, R108) -/

namespace SteamLawful

variable {u : SteamUnit} {h : Bay}

theorem startGrant (hl : SteamLawful none u) (hg : u.gen ≠ .tripped) (boiler : Int) :
    SteamLawful (some h) (u.startGrant boiler h) := by
  have hrest : ¬(u.gen = .heating ∨ u.gen = .ready ∨ u.gen = .delivering) := fun hn => by simpa using hl.holder.mpr hn
  obtain ⟨-, -, hvalves⟩ := hl.at_rest hrest
  have hstart (g : GenState) (hnew : g = .heating ∨ g = .ready) :
      SteamLawful (some h) (SteamUnit.switchHeater (boiler < Params.heaterOnBelow) { u with warmHold := none, gen := g }) := {
    holder := by rcases hnew with rfl | rfl <;> simp [SteamUnit.switchHeater]
    heater := fun _ => by rcases hnew with rfl | rfl <;> simp [SteamUnit.switchHeater]
    valves := fun k hk => by simp [SteamUnit.switchHeater, hvalves k] at hk
    warm := by rcases hnew with rfl | rfl <;> simp [SteamUnit.switchHeater]
    fill := fun ht => by rcases hnew with rfl | rfl <;> cases ht
    dryFire := fun hh => by
      have hoff : decide (boiler < Params.heaterOnBelow) = false := hh
      simp [SteamUnit.switchHeater, hoff] }
  have hgo : SteamLawful (some h) (SteamUnit.tryDeliver h (SteamUnit.switchHeater (boiler < Params.heaterOnBelow)
      { u with warmHold := none, gen := if Params.boilerReady ≤ boiler then .ready else .heating })) :=
    (hstart _ (by split <;> simp)).tryDeliver
  unfold SteamUnit.startGrant
  cases hu : u.gen
  case off => exact hgo
  case warmHold => exact hgo
  case tripped => exact absurd hu hg
  all_goals simp [hu] at hrest

theorem toWarmHold {row : Option Bay} {v : SteamUnit} (hvalves : ∀ k : Bay, v.valves.get k = false) (setting : Nat)
    (hrow : row = none) : SteamLawful row (v.toWarmHold setting) where
  holder := by simp only [hrow, SteamUnit.toWarmHold, SteamUnit.switchHeater]; split <;> simp
  heater hh := by cases hh
  valves k hk := by simp [SteamUnit.toWarmHold, SteamUnit.switchHeater, hvalves k] at hk
  warm := by simp only [SteamUnit.toWarmHold, SteamUnit.switchHeater]; split <;> simp
  fill ht := by simp only [SteamUnit.toWarmHold, SteamUnit.switchHeater] at ht; split at ht <;> cases ht
  dryFire _ := rfl

theorem endGrant (hl : SteamLawful (some h) u) (st : Settings) : SteamLawful none (u.endGrant st h) := by
  have hon : u.gen = .heating ∨ u.gen = .ready ∨ u.gen = .delivering := hl.holder.mp rfl
  have hshut (hg : u.gen ≠ .delivering) (k : Bay) : u.valves.get k = false := by
    simpa using fun hk => hg (hl.valves k hk).2
  unfold SteamUnit.endGrant
  rcases hon with hg | hg | hg <;> rw [hg]
  · exact toWarmHold (hshut (by simp [hg])) _ rfl
  · exact toWarmHold (hshut (by simp [hg])) _ rfl
  · refine toWarmHold (fun k => ?_) _ rfl
    have hvalves : (u.valves.set h false).get k = false := by
      rw [PerBay.get_set]
      split
      next => rfl
      next hk =>
        have hno : ¬u.valves.get k = true := fun hv => hk (Option.some.inj (hl.valves k hv).1).symm
        simpa using hno
    unfold SteamUnit.startDwell
    split <;> exact hvalves

theorem trip (st : Settings) (cause : TripCause) (row : Option Bay) (u : SteamUnit) :
    SteamLawful none (u.trip st cause row) ∧ (u.trip st cause row).gen = .tripped :=
  ⟨{ holder := by simp [SteamUnit.trip, SteamUnit.switchHeater], heater := fun hh => by cases hh
     valves := fun k hk => by simp [SteamUnit.trip, SteamUnit.switchHeater] at hk
     warm := by simp [SteamUnit.trip, SteamUnit.switchHeater], fill := fun _ => rfl, dryFire := fun _ => rfl }, rfl⟩

end SteamLawful

theorem endGrant_tripped {u : SteamUnit} (hg : u.gen = .tripped) (st : Settings) (h : Bay) : u.endGrant st h = u := by
  simp [SteamUnit.endGrant, hg]

/-! ## One bay's air handling (R25, R119, R121, R123, R124, R126) -/

theorem TachoLawful.setFan {a : AirBay} (h : TachoLawful a) (level : Nat) : TachoLawful (a.setFan level) := by
  intro hz
  have hlevel : level = 0 := hz
  subst hlevel
  unfold AirBay.setFan
  simp only [if_true]
  split
  next ha => exact h ha
  next => rfl

theorem damperOn_openDamper (a : AirBay) : a.openDamper.damperOn := by
  unfold AirBay.openDamper AirBay.damperOn
  cases hd : a.damper <;> simp [hd]

theorem not_damperOn_closeDamper (a : AirBay) : ¬a.closeDamper.damperOn := by
  unfold AirBay.closeDamper AirBay.damperOn
  cases hd : a.damper <;> simp [hd]

theorem openDamper_fields (a : AirBay) :
    a.openDamper.reheater = a.reheater ∧ a.openDamper.fanLevel = a.fanLevel ∧ a.openDamper.tacho = a.tacho := by
  unfold AirBay.openDamper; split <;> exact ⟨rfl, rfl, rfl⟩

theorem closeDamper_fields (a : AirBay) : a.closeDamper.fanLevel = a.fanLevel ∧ a.closeDamper.tacho = a.tacho := by
  unfold AirBay.closeDamper; split <;> exact ⟨rfl, rfl⟩

/-- One bay's air handling, by whether the bay holds a DRY slot, its reheat status and its demands. -/
structure AirLawful (dry : Bool) (reheat : Option Reheat) (b : BayContext) (a : AirBay) : Prop where
  damper   : dry = true ↔ a.damperOn
  reheater : a.reheater = true → reheat = some .on ∧ a.damper = .opened
  fan      : a.fanLevel = b.fanDemand
  vent     : a.vent = b.ventDemand
  tacho    : TachoLawful a

/-- The demands of a bay reach its air handling, whatever they were. -/
theorem AirLawful.of_demanded {dry : Bool} {reheat : Option Reheat} {b : BayContext} {a : AirBay} (hdamper : dry = true ↔ a.damperOn)
    (hreheater : a.reheater = true → reheat = some .on ∧ a.damper = .opened) (ht : TachoLawful a) :
    AirLawful dry reheat b (State.demanded b a) where
  damper := hdamper
  reheater := hreheater
  fan := rfl
  vent := rfl
  tacho hz := ht.setFan b.fanDemand hz

theorem AirLawful.follows {dry : Bool} {reheat reheat' : Option Reheat} {b c : BayContext} {a a' : AirBay} (h : AirLawful dry reheat b a)
    (hair : AirFollows a a') (hfan : c.fanDemand = b.fanDemand) (hvent : c.ventDemand = b.ventDemand)
    (hreheater : a'.reheater = true → reheat' = some .on ∧ a'.damper = .opened) : AirLawful dry reheat' c a' where
  damper := h.damper.trans hair.damper.symm
  reheater := hreheater
  fan := by rw [hair.fan, h.fan, hfan]
  vent := by rw [hair.vent, h.vent, hvent]
  tacho := hair.tacho h.tacho

namespace State

variable {s t : State} {k : Bay}

theorem reheatOf_holdsDry {a : Arbiter} {j : Bay} {r : Reheat} (h : a.reheatOf j = some r) : a.holdsDry j = true := by
  unfold Arbiter.reheatOf at h
  unfold Arbiter.holdsDry
  split at h
  next hA => simp [hA]
  next =>
    split at h
    next hB => simp [hB]
    next => cases h

theorem reheatOf_slotWithout {a b : Arbiter} {j : Bay} (hj : j ≠ k) (hA : b.slotA = Arbiter.slotWithout k a.slotA)
    (hB : b.slotB = Arbiter.slotWithout k a.slotB) : b.reheatOf j = a.reheatOf j := by
  have hkeep (d : Option DrySlot) (hd : Arbiter.slotHeldBy j d = true) : Arbiter.slotWithout k d = d := by
    unfold Arbiter.slotWithout
    rw [slotHeldBy_iff] at hd
    rw [if_neg]
    rw [slotHeldBy_iff, hd]
    exact fun h => hj (Option.some.inj h)
  unfold Arbiter.reheatOf
  rw [hA, hB, slotWithout_other hj, slotWithout_other hj]
  split
  next h => rw [hkeep _ h]
  next =>
    split
    next h => rw [hkeep _ h]
    next => rfl

theorem dryHolders_pos (a : Arbiter) : 0 < a.dryHolders ↔ a.slotA.isSome = true ∨ a.slotB.isSome = true := by
  unfold Arbiter.dryHolders
  cases a.slotA <;> cases a.slotB <;> simp

/-- One holder fewer once a bay's slot has ended. -/
theorem dryHolders_slotWithout {a b : Arbiter} (hk : a.holdsDry k = true)
    (hdistinct : ∀ x ∈ a.slotA, ∀ y ∈ a.slotB, x.bay ≠ y.bay) (hA : b.slotA = Arbiter.slotWithout k a.slotA)
    (hB : b.slotB = Arbiter.slotWithout k a.slotB) : a.dryHolders = b.dryHolders + 1 := by
  unfold Arbiter.dryHolders
  rw [hA, hB]
  unfold Arbiter.holdsDry at hk
  cases ha : a.slotA with
  | none =>
    cases hb : a.slotB with
    | none => simp [ha, hb, Arbiter.slotHeldBy] at hk
    | some y =>
      have hy : y.bay = k := by simpa [ha, hb, Arbiter.slotHeldBy] using hk
      simp [Arbiter.slotWithout, Arbiter.slotHeldBy, hy]
  | some x =>
    cases hb : a.slotB with
    | none =>
      have hx : x.bay = k := by simpa [ha, hb, Arbiter.slotHeldBy] using hk
      simp [Arbiter.slotWithout, Arbiter.slotHeldBy, hx]
    | some y =>
      have hxy := hdistinct x ha y hb
      rw [ha, hb] at hk
      simp only [Arbiter.slotHeldBy, Bool.or_eq_true, decide_eq_true_eq] at hk
      rcases hk with hx | hy
      · have hy : y.bay ≠ k := fun hy => hxy (hx.trans hy.symm)
        simp [Arbiter.slotWithout, Arbiter.slotHeldBy, hx, hy]
      · have hx : x.bay ≠ k := fun hx => hxy (hx.trans hy.symm)
        simp [Arbiter.slotWithout, Arbiter.slotHeldBy, hx, hy]

end State
end Sys2Proof.Machine

/-!
PROOFS. Each move keeps the laws of the plant lines.
-/

namespace Sys2Proof.Machine.State

variable {s t : State} {k : Bay}

/-- The compressor and every bay's air handling follow the DRY slots and the demands, and halts and bypass counts are legal. -/
structure GrantLines (s : State) : Prop where
  compressor : CompressorLawful s.arb.dryHolders s.dry
  air        : ∀ k : Bay, AirLawful (s.arb.holdsDry k) (s.arb.reheatOf k) (s.bay k) (s.air k)
  halts      : ∀ k : Bay, BayHalts (s.bay k)
  bypass     : ∀ k : Bay, ∀ e ∈ s.arb.requests.get k, e.bypass ≤ 3

theorem GrantLines.reheatersSafe (h : s.GrantLines) : s.ReheatersSafe := fun k hr =>
  (reheatReady_iff s k).mpr ((h.air k).reheater hr)

/-- What touches neither the DRY slots nor the drying circuit nor the bays. -/
theorem GrantLines.of_table (h : s.GrantLines) (hA : t.arb.slotA = s.arb.slotA) (hB : t.arb.slotB = s.arb.slotB)
    (hdry : t.dry = s.dry) (hbay : ∀ j, t.bay j = s.bay j)
    (hreq : ∀ j, EntryFollows (s.arb.requests.get j) (t.arb.requests.get j)) : t.GrantLines where
  compressor := by
    have hn : t.arb.dryHolders = s.arb.dryHolders := by simp [Arbiter.dryHolders, hA, hB]
    rw [hn, hdry]; exact h.compressor
  air j := by
    have hd : t.arb.holdsDry j = s.arb.holdsDry j := by simp [Arbiter.holdsDry, hA, hB]
    have hr : t.arb.reheatOf j = s.arb.reheatOf j := by simp [Arbiter.reheatOf, hA, hB]
    rw [hd, hr, hbay, State.air, hdry]; exact h.air j
  halts j := by rw [hbay]; exact h.halts j
  bypass j := (hreq j).bypass (h.bypass j)

theorem dryHolders_le (a : Arbiter) : a.dryHolders ≤ 2 := by
  unfold Arbiter.dryHolders
  split <;> split <;> decide

theorem endsDry_iff (h : s.ListLawful) (k : Bay) : s.endsDry k = true ↔ s.arb.holdsDry k = true := by
  have hone := h.holds_one k
  unfold endsDry
  cases hs : s.arb.holdsSteam k <;> simp_all

/-- A bay leaves the plant: its damper closes, its reheater is OFF, and the compressor acts on the holders that remain. -/
theorem GrantLines.leaves {req : Option Entry} (h : s.GrantLines) (hlist : s.ListLawful) (hl : s.Leaves t k req)
    (hhalts : BayHalts (t.bay k)) (hreq : ∀ e ∈ req, e.bypass ≤ 3) : t.GrantLines where
  compressor := by
    have hdry := hl.dry
    have hslots := hl.slots
    unfold slotsLeft at hslots
    split at hdry
    next he =>
      rw [if_pos he] at hslots
      obtain ⟨hA, hB⟩ := Prod.mk.inj hslots
      have hn := dryHolders_slotWithout ((endsDry_iff hlist k).mp he) hlist.distinct hA hB
      have hle := dryHolders_le s.arb
      have hc := h.compressor
      rw [hn] at hc
      exact (hc.dryEnds (by omega) hdry).of_withAir rfl
    next he =>
      rw [if_neg he] at hslots
      obtain ⟨hA, hB⟩ := Prod.mk.inj hslots
      have hn : t.arb.dryHolders = s.arb.dryHolders := by simp [Arbiter.dryHolders, hA, hB]
      rw [hn]
      exact h.compressor.of_withAir hdry
  air j := by
    have hd : t.arb.holdsDry j = (s.arb.holdsDry j && decide (j ≠ k)) := hl.holds (hlist.holds_one k) j .dry
    by_cases hj : j = k
    · subst hj
      rw [hd, hl.air]
      have hlaw := h.air j
      split
      next he =>
        refine .of_demanded (iff_of_false (by simp) (not_damperOn_closeDamper (s.air j))) (by simp) fun hz => ?_
        obtain ⟨hf, ht⟩ := closeDamper_fields (s.air j)
        exact ht.trans (hlaw.tacho (hf.symm.trans hz))
      next he =>
        have hno : s.arb.holdsDry j = false := by simpa using fun hk => he ((endsDry_iff hlist j).mpr hk)
        refine .of_demanded (by simpa [hno] using hlaw.damper) (fun hr => ?_) hlaw.tacho
        rw [reheatOf_holdsDry (hlaw.reheater hr).1] at hno
        cases hno
    · obtain ⟨hb, ha, -⟩ := hl.others j hj
      have hslots := hl.slots
      have hr : t.arb.reheatOf j = s.arb.reheatOf j := by
        unfold slotsLeft at hslots
        split at hslots
        next => obtain ⟨hA, hB⟩ := Prod.mk.inj hslots; exact reheatOf_slotWithout hj hA hB
        next => obtain ⟨hA, hB⟩ := Prod.mk.inj hslots; simp [Arbiter.reheatOf, hA, hB]
      rw [hd, hr, hb, ha]
      simpa [hj] using h.air j
  halts j := by
    by_cases hj : j = k
    · rw [hj]; exact hhalts
    · rw [(hl.others j hj).1]; exact h.halts j
  bypass j := by
    by_cases hj : j = k
    · rw [hj, hl.request]; exact hreq
    · rw [(hl.others j hj).2.2]; exact h.bypass j

theorem GrantLines.onlyBay {raise : NoticeSet → NoticeSet} (h : s.GrantLines) (ho : s.OnlyBay t k raise)
    (hhalts : BayHalts (t.bay k)) : t.GrantLines where
  compressor := by
    rw [ho.arb]
    exact h.compressor.of_withAir ho.dry
  air j := by
    rw [ho.arb]
    by_cases hj : j = k
    · subst hj
      have hlaw := h.air j
      rw [ho.air]
      exact .of_demanded hlaw.damper hlaw.reheater hlaw.tacho
    · obtain ⟨hb, ha⟩ := ho.others j hj
      rw [hb, ha]; exact h.air j
  halts j := by
    by_cases hj : j = k
    · rw [hj]; exact hhalts
    · rw [(ho.others j hj).1]; exact h.halts j
  bypass j := by rw [ho.arb]; exact h.bypass j

theorem GrantLines.contexts {bs : PerBay BayContext} (h : s.GrantLines)
    (hf : ∀ k : Bay, ContextFollows (s.arb.requests.get k) (s.bay k) (bs.get k)) : ({ s with bays := bs } : State).GrantLines where
  compressor := h.compressor
  air j := (h.air j).follows ⟨.rfl, rfl, rfl, id⟩ (hf j).fan (hf j).vent (h.air j).reheater
  halts j := (hf j).halts (h.halts j)
  bypass := h.bypass

theorem GrantLines.dry {d : DryingCircuit} (h : s.GrantLines) (hcomp : d.comp = s.dry.comp) (hspeed : d.speed = s.dry.speed)
    (hair : ∀ k : Bay, AirFollows (s.air k) (d.air.get k))
    (hreheat : s.ReheatersSafe → ({ s with dry := d } : State).ReheatersSafe) : ({ s with dry := d } : State).GrantLines where
  compressor := ⟨by rw [hcomp]; exact h.compressor.held, by rw [hspeed, hcomp]; exact h.compressor.speed⟩
  air j := (h.air j).follows (hair j) rfl rfl fun hr => (reheatReady_iff _ j).mp (hreheat h.reheatersSafe j hr)
  halts := h.halts
  bypass := h.bypass

/-- The compressor alone changes. -/
theorem GrantLines.compressorOnly (h : s.GrantLines) (hair : t.dry.air = s.dry.air)
    (hA : t.arb.slotA = s.arb.slotA) (hB : t.arb.slotB = s.arb.slotB) (hbay : ∀ j, t.bay j = s.bay j)
    (hreq : t.arb.requests = s.arb.requests) (hc : CompressorLawful s.arb.dryHolders t.dry) : t.GrantLines where
  compressor := by
    have hn : t.arb.dryHolders = s.arb.dryHolders := by simp [Arbiter.dryHolders, hA, hB]
    rw [hn]; exact hc
  air j := by
    have hd : t.arb.holdsDry j = s.arb.holdsDry j := by simp [Arbiter.holdsDry, hA, hB]
    have hr : t.arb.reheatOf j = s.arb.reheatOf j := by simp [Arbiter.reheatOf, hA, hB]
    rw [hd, hr, hbay, State.air, hair]; exact h.air j
  halts j := by rw [hbay]; exact h.halts j
  bypass := by rw [hreq]; exact h.bypass

theorem dryHolders_zero {a : Arbiter} : a.dryHolders = 0 ↔ a.slotA = none ∧ a.slotB = none := by
  unfold Arbiter.dryHolders
  cases a.slotA <;> cases a.slotB <;> simp

/-- A forced stop with no holder left, or of a compressor in TAIL, which has none. -/
theorem GrantLines.forceStop (h : s.GrantLines) (hstop : s.arb.slotA = none ∧ s.arb.slotB = none ∨ s.dry.comp = .tail) :
    s.forceStop.GrantLines := by
  have hzero : s.arb.dryHolders = 0 := by
    rcases hstop with hnone | ht
    · exact dryHolders_zero.mpr hnone
    · have hheld := h.compressor.held
      simpa [ht] using hheld
  refine h.compressorOnly (forcedStop_air ..) rfl rfl (fun _ => rfl) rfl ?_
  rw [hzero]
  exact h.compressor.forcedStop _

/-- A reheat status reaches the bay's own reheater (R121). -/
theorem GrantLines.setReheat (h : s.GrantLines) (k : Bay) (r : Reheat) : (s.setReheat k r).GrantLines := by
  obtain ⟨-, -, hdry, hothers, hk⟩ := setReheat_spec s k r
  have hA := setReheat_slotA s k r
  have hB := setReheat_slotB s k r
  have hd (j : Bay) : (s.setReheat k r).arb.holdsDry j = s.arb.holdsDry j := by
    unfold Arbiter.holdsDry
    rw [hA, hB, slotHeldBy_of_bay (slotWith_bay ..), slotHeldBy_of_bay (slotWith_bay ..)]
  have hn : (s.setReheat k r).arb.dryHolders = s.arb.dryHolders := by
    unfold Arbiter.dryHolders
    rw [hA, hB, isSome_of_bay (slotWith_bay ..), isSome_of_bay (slotWith_bay ..)]
  refine ⟨?_, fun j => ?_, fun j => ?_, ?_⟩
  · rw [hn]
    exact h.compressor.of_withAir hdry
  · have hlaw := h.air j
    have hb : (s.setReheat k r).bay j = s.bay j := by simp [bay]
    rw [hd, hb]
    by_cases hj : j = k
    · subst hj
      rw [hk]
      exact hlaw.follows ⟨.rfl, rfl, rfl, id⟩ rfl rfl fun hr => by
        split at hr
        next hready => exact hready
        next => cases hr
    · rw [hothers j hj, setReheat_reheatOf_other s hj]; exact hlaw
  · simpa [bay] using h.halts j
  · rw [setReheat_requests]; exact h.bypass

/-! ## A grant -/

/-- One DRY holder more. -/
theorem GrantsInPass.dryHolders {e : Entry} {q : List Bay} (h : s.GrantsInPass t k e q) (hr : e.resource = .dry)
    (hfree : s.arb.slotA = none ∨ s.arb.slotB = none) : t.arb.dryHolders = s.arb.dryHolders + 1 ∧ s.arb.dryHolders ≤ 1 := by
  unfold Arbiter.dryHolders
  obtain ⟨r, ⟨hn, hA, hB⟩ | ⟨hn, hA, hB⟩⟩ := h.slots hr
  · rw [hA, hB, hn]
    cases s.arb.slotB <;> simp
  · have hnone : s.arb.slotB = none := hfree.resolve_left hn
    obtain ⟨a, ha⟩ := Option.ne_none_iff_exists'.mp hn
    rw [hA, hB, ha, hnone]
    simp

theorem slotHeldBy_none (j : Bay) : Arbiter.slotHeldBy j none = false := rfl

theorem slotHeldBy_other {j : Bay} (hj : j ≠ k) (r : Reheat) : Arbiter.slotHeldBy j (some ⟨k, r⟩) = false := by
  simp [Arbiter.slotHeldBy, hj.symm]

/-- The reheat status of another bay is that of its slot, which a grant leaves. -/
theorem GrantsInPass.reheatOf_other {e : Entry} {q : List Bay} (h : s.GrantsInPass t k e q)
    (hfree : e.resource = .dry → s.arb.slotA = none ∨ s.arb.slotB = none) {j : Bay} (hj : j ≠ k) :
    t.arb.reheatOf j = s.arb.reheatOf j ∧ t.arb.holdsDry j = s.arb.holdsDry j := by
  cases hr : e.resource with
  | steam =>
    obtain ⟨-, hA, hB, -⟩ := h.steam hr
    simp [Arbiter.reheatOf, Arbiter.holdsDry, hA, hB]
  | dry =>
    obtain ⟨r, ⟨hn, hA, hB⟩ | ⟨hn, hA, hB⟩⟩ := h.slots hr
    · simp [Arbiter.reheatOf, Arbiter.holdsDry, hA, hB, hn, slotHeldBy_none, slotHeldBy_other hj]
    · have hnone : s.arb.slotB = none := (hfree hr).resolve_left hn
      simp [Arbiter.reheatOf, Arbiter.holdsDry, hA, hB, hnone, slotHeldBy_none, slotHeldBy_other hj]

theorem BayHalts.granted {b : BayContext} (h : BayHalts b) (ha : b.state = .await) :
    BayHalts { b with state := .active, waitElapsed := 0, overheatRun := 0, limitReached := false, waitReached := false } :=
  (h.unhalted (by simp [ha]) (by simp [ha])).halts rfl rfl (.inr rfl)

section

variable (h : s.GrantLines) (hlist : s.ListLawful) {e f : Entry} (hel : s.eligible k e = true) (hf : s.arb.requests.get k = some f)

include h hlist hel hf

/-- A DRY grant starts or speeds the compressor as its holders rise by one (R112, R117). -/
theorem GrantLines.grant_compressor :
    CompressorLawful (s.grantInPass k e []).arb.dryHolders (s.grantInPass k e []).dry := by
  have hspec := hlist.grantSpec hel hf
  cases hr : e.resource with
  | steam =>
    obtain ⟨-, hA, hB, -, hdry, -⟩ := hspec.steam hr
    have hn : (s.grantInPass k e []).arb.dryHolders = s.arb.dryHolders := by simp [Arbiter.dryHolders, hA, hB]
    rw [hn]
    exact h.compressor.of_withAir hdry
  | dry =>
    obtain ⟨-, -, hdry, -⟩ := hspec.dry hr
    obtain ⟨hn, hle⟩ := hspec.dryHolders hr (eligible_slot hel hr)
    rw [hn]
    exact (h.compressor.onGrant hle _).of_withAir hdry

/-- The air handling of the bay that the grant reaches: as demanded, and for DRY with its damper on the way open (R25, R119). -/
theorem GrantLines.grant_air : AirLawful ((s.grantInPass k e []).arb.holdsDry k) ((s.grantInPass k e []).arb.reheatOf k)
    ((s.grantInPass k e []).bay k) ((s.grantInPass k e []).air k) := by
  have hspec := hlist.grantSpec hel hf
  have hno : s.arb.holdsDry k = false := hlist.waiting_holds hf .dry
  have hlaw := h.air k
  cases hr : e.resource with
  | steam =>
    obtain ⟨-, hA, hB, -, -, hair⟩ := hspec.steam hr
    have hd : (s.grantInPass k e []).arb.holdsDry k = s.arb.holdsDry k := by simp [Arbiter.holdsDry, hA, hB]
    have hro : (s.grantInPass k e []).arb.reheatOf k = s.arb.reheatOf k := by simp [Arbiter.reheatOf, hA, hB]
    rw [hd, hro, hair]
    exact .of_demanded hlaw.damper hlaw.reheater hlaw.tacho
  | dry =>
    obtain ⟨-, -, -, -, hair⟩ := hspec.dry hr
    have hclosed : ¬(s.air k).damperOn := fun hon => by rw [hlaw.damper.mpr hon] at hno; cases hno
    have hoff : (s.air k).reheater = false := Bool.eq_false_iff.mpr fun hon => by
      rw [reheatOf_holdsDry (hlaw.reheater hon).1] at hno; cases hno
    have hd : (s.grantInPass k e []).arb.holdsDry k = true := by
      obtain ⟨r, ⟨-, hA, -⟩ | ⟨-, -, hB⟩⟩ := hspec.slots hr
      · simp [Arbiter.holdsDry, Arbiter.slotHeldBy, hA]
      · simp [Arbiter.holdsDry, Arbiter.slotHeldBy, hB]
    obtain ⟨hreheater, hfan, htacho⟩ := openDamper_fields (s.air k)
    rw [hd, hair (fun ho => hclosed (.inl ho)) hoff]
    refine .of_demanded (by simpa using damperOn_openDamper (s.air k)) (by simp [hreheater, hoff]) fun hz => ?_
    exact htacho.trans (hlaw.tacho (hfan.symm.trans hz))

theorem GrantLines.grant : (s.grantInPass k e []).GrantLines := by
  have hspec := hlist.grantSpec hel hf
  have ha : (s.bay k).state = .await := (hlist.bays k).request.mp (by simp [hf])
  refine ⟨h.grant_compressor hlist hel hf, fun j => ?_, fun j => ?_, fun j => ?_⟩
  · by_cases hj : j = k
    · subst hj
      exact h.grant_air hlist hel hf
    · obtain ⟨hro, hd⟩ := hspec.reheatOf_other (eligible_slot hel) hj
      rw [hro, hd, hspec.others j hj, hspec.bays j, if_neg hj]
      exact h.air j
  · rw [hspec.bays j]
    split
    next => exact BayHalts.granted (h.halts k) ha
    next => exact h.halts j
  · rw [hspec.requests j]
    split
    next => simp
    next => simpa using h.bypass j

end

end Sys2Proof.Machine.State

/-!
PROOFS. Each move keeps the laws of the plant lines, with the steam unit by its row and no drying while the condensate is full.
-/

namespace Sys2Proof.Machine.State

variable {s t : State} {k : Bay}

/-- The plant lines, but for the full latch. -/
structure LinesRun (s : State) : Prop where
  grants : s.GrantLines
  steam  : SteamLawful s.arb.steamRow s.steam
  drain  : DrainLawful s.water

/-- The laws of the plant lines. -/
structure LinesLawful (s : State) : Prop extends s.LinesRun where
  full : s.FullStopsDrying

/-- What touches none of DRY slots, STEAM row, steam unit, drying circuit, water inventory and bays. -/
theorem LinesLawful.of_table (h : s.LinesLawful) (hA : t.arb.slotA = s.arb.slotA) (hB : t.arb.slotB = s.arb.slotB)
    (hrow : t.arb.steamRow = s.arb.steamRow) (hsteam : t.steam = s.steam) (hdry : t.dry = s.dry) (hwater : t.water = s.water)
    (hbay : ∀ j, t.bay j = s.bay j) (hreq : ∀ j, EntryFollows (s.arb.requests.get j) (t.arb.requests.get j)) :
    t.LinesLawful where
  grants := h.grants.of_table hA hB hdry hbay hreq
  steam := by rw [hrow, hsteam]; exact h.steam
  drain := by rw [hwater]; exact h.drain
  full := by
    unfold FullStopsDrying
    rw [hwater, hA, hB, hdry]
    exact h.full

/-! ## A bay leaves the plant -/

theorem Leaves.steamLawful {req : Option Entry} (hl : s.Leaves t k req) (h : SteamLawful s.arb.steamRow s.steam) :
    SteamLawful t.arb.steamRow t.steam := by
  rw [hl.row, hl.steam]
  split
  next hs =>
    have hrow : s.arb.steamRow = some k := by simpa [Arbiter.holdsSteam] using hs
    rw [hrow] at h
    exact h.endGrant _
  next => exact h

theorem Leaves.full {req : Option Entry} (hl : s.Leaves t k req) (h : s.FullStopsDrying) : t.FullStopsDrying := by
  intro hw
  rw [hl.water] at hw
  obtain ⟨hA, hB, hc⟩ := h hw
  have hno : s.endsDry k = false := by simp [endsDry, Arbiter.holdsDry, Arbiter.slotHeldBy, hA, hB]
  have hdry := hl.dry
  have hslots := hl.slots
  rw [if_neg (by simp [hno])] at hdry
  rw [slotsLeft, if_neg (by simp [hno])] at hslots
  obtain ⟨hA', hB'⟩ := Prod.mk.inj hslots
  have hcomp : t.dry.comp = s.dry.comp := by rw [← hdry]
  exact ⟨hA'.trans hA, hB'.trans hB, hcomp.trans hc⟩

theorem LinesRun.leaves {req : Option Entry} (h : s.LinesRun) (hlist : s.ListLawful) (hl : s.Leaves t k req)
    (hhalts : BayHalts (t.bay k)) (hreq : ∀ e ∈ req, e.bypass ≤ 3) : t.LinesRun where
  grants := h.grants.leaves hlist hl hhalts hreq
  steam := hl.steamLawful h.steam
  drain := by rw [hl.water]; exact h.drain

theorem fresh_bypass (q : Resource) (boost : Bool) : ∀ e ∈ some (Entry.fresh q boost), e.bypass ≤ 3 := by
  rintro e ⟨⟩
  exact Nat.zero_le 3

theorem LinesRun.revokeDry (h : s.LinesRun) (hlist : s.ListLawful) (hk : s.arb.holdsDry k = true) : (s.revokeDry k).LinesRun := by
  obtain ⟨⟨boost, hl⟩, hb, hs⟩ := hlist.revokeDry hk
  exact h.leaves hlist hl (by rw [hb]; exact (h.grants.halts k).awaits hs.1) (fresh_bypass _ _)

theorem LinesRun.revokeSteam (h : s.LinesRun) (hlist : s.ListLawful) (hk : s.arb.steamRow = some k) : (s.revokeSteam k).LinesRun := by
  obtain ⟨hl, hb, hs⟩ := hlist.revokeSteam hk
  exact h.leaves hlist hl (by rw [hb]; exact (h.grants.halts k).awaits hs.1) (fresh_bypass _ _)

/-! ## A trip, and the end of all drying -/

theorem LinesLawful.tripGenerator (h : s.LinesLawful) (hlist : s.ListLawful) (cause : TripCause) :
    (s.tripGenerator cause).LinesLawful := by
  let tripped := s.mapSteam (SteamUnit.trip s.arb.settings cause s.arb.steamRow)
  obtain ⟨hsteam, hgen⟩ := SteamLawful.trip s.arb.settings cause s.arb.steamRow s.steam
  have hgrants : tripped.GrantLines := h.grants.of_table rfl rfl rfl (fun _ => rfl) fun _ => .refl _
  have hlistT : tripped.ListLawful := hlist.of_table (fun _ => rfl) (fun _ => .refl _) rfl rfl rfl
  have hrevoked : LinesLawful (match s.arb.steamRow with | some k => tripped.revokeSteam k | none => tripped) := by
    split
    next k hk =>
      obtain ⟨hl, hb, hs⟩ := hlistT.revokeSteam (k := k) hk
      have hholds : tripped.arb.holdsSteam k = true := by
        have hrow : tripped.arb.steamRow = some k := hk
        simp [Arbiter.holdsSteam, hrow]
      refine { grants := hgrants.leaves hlistT hl (by rw [hb]; exact (h.grants.halts k).awaits hs.1) (fresh_bypass _ _)
               steam := ?_, drain := by rw [hl.water]; exact h.drain, full := hl.full h.full }
      rw [hl.row, hl.steam, if_pos hholds, if_pos hholds, endGrant_tripped (u := tripped.steam) hgen]
      exact hsteam
    next hnone =>
      refine { grants := hgrants, steam := ?_, drain := h.drain, full := h.full }
      have hrow : tripped.arb.steamRow = none := hnone
      rw [hrow]; exact hsteam
  exact hrevoked.of_table rfl rfl rfl rfl rfl rfl (fun _ => rfl) fun _ => .refl _

theorem LinesRun.same (h : s.LinesRun) (harb : (t.arb.slotA, t.arb.slotB, t.arb.steamRow, t.arb.requests) =
      (s.arb.slotA, s.arb.slotB, s.arb.steamRow, s.arb.requests))
    (hsteam : t.steam = s.steam) (hdry : t.dry = s.dry) (hwater : t.water = s.water) (hbay : ∀ j, t.bay j = s.bay j) : t.LinesRun := by
  obtain ⟨hA, hB, hrow, hreq⟩ := by simpa only [Prod.mk.injEq] using harb
  exact { grants := h.grants.of_table hA hB hdry hbay fun j => by rw [hreq]; exact .refl _
          steam := by rw [hrow, hsteam]; exact h.steam
          drain := by rw [hwater]; exact h.drain }

theorem forcedStop_comp (d : DryingCircuit) (st : Settings) : (d.forcedStop st).comp = .off := by
  unfold DryingCircuit.forcedStop
  split
  next => rfl
  next => rfl
  next => rfl
  next h => exact h

theorem LinesRun.onTankFull (h : s.LinesRun) (hlist : s.ListLawful) : s.onTankFull.LinesLawful := by
  have hboth : s.onTankFull.ListLawful ∧ s.onTankFull.LinesRun :=
    onTankFull_keeps (P := fun s => s.ListLawful ∧ s.LinesRun)
      (fun hk h => ⟨h.1.afterRevokeDry hk, h.2.revokeDry h.1 hk⟩)
      (fun hA hB h => ⟨h.1.of_table (fun _ => rfl) (fun _ => .refl _) rfl rfl rfl,
        { grants := h.2.grants.forceStop (.inl ⟨hA, hB⟩), steam := h.2.steam, drain := h.2.drain }⟩)
      (fun h => ⟨h.1.of_table (fun _ => rfl) (fun _ => .refl _) rfl rfl rfl, h.2.same rfl rfl rfl rfl fun _ => rfl⟩)
      (fun h => ⟨h.1.of_table (fun _ => rfl) (fun _ => .refl _) rfl rfl rfl, h.2.same rfl rfl rfl rfl fun _ => rfl⟩)
      hlist.distinct ⟨hlist, h⟩
  obtain ⟨hA, hB⟩ := revokeSlot_both hlist.distinct
  exact { toLinesRun := hboth.2, full := fun _ => ⟨hA, hB, forcedStop_comp ..⟩ }

/-! ## An evaluation -/

theorem LinesLawful.setReheat (h : s.LinesLawful) (k : Bay) (r : Reheat) : (s.setReheat k r).LinesLawful where
  grants := h.grants.setReheat k r
  steam := by
    have hrow : (s.setReheat k r).arb.steamRow = s.arb.steamRow := by simp [State.setReheat, Arbiter.setReheat, refreshDraw]
    have hsteam : (s.setReheat k r).steam = s.steam := by simp [State.setReheat, refreshDraw]
    rw [hrow, hsteam]; exact h.steam
  drain := by
    have hwater : (s.setReheat k r).water = s.water := congrArg Stable.water (setReheat_stable s k r)
    rw [hwater]; exact h.drain
  full hw := by
    have hwater : (s.setReheat k r).water = s.water := congrArg Stable.water (setReheat_stable s k r)
    rw [hwater] at hw
    obtain ⟨hA, hB, hc⟩ := h.full hw
    obtain ⟨-, -, hdry, -⟩ := setReheat_spec s k r
    have hcomp : (s.setReheat k r).dry.comp = s.dry.comp := by rw [← hdry]
    refine ⟨?_, ?_, hcomp.trans hc⟩
    · rw [setReheat_slotA, hA]; rfl
    · rw [setReheat_slotB, hB]; rfl

theorem eligible_steam {e : Entry} (hel : s.eligible k e = true) (hr : e.resource = .steam) :
    s.arb.steamRow = none ∧ s.steam.gen ≠ .tripped := by
  simp [eligible, hr] at hel
  exact hel.2.1

theorem eligible_dry {e : Entry} (hel : s.eligible k e = true) (hr : e.resource = .dry) : s.water.condensateFull = false := by
  simp [eligible, hr] at hel
  exact hel.2.2

theorem LinesLawful.grant (h : s.LinesLawful) (hlist : s.ListLawful) {e f : Entry} (hel : s.eligible k e = true)
    (hf : s.arb.requests.get k = some f) : (s.grantInPass k e []).LinesLawful := by
  have hspec := hlist.grantSpec hel hf
  have hwater : (s.grantInPass k e []).water = s.water := congrArg Stable.water hspec.stable
  refine { grants := h.grants.grant hlist hel hf, steam := ?_, drain := by rw [hwater]; exact h.drain, full := fun hw => ?_ }
  · cases hr : e.resource with
    | steam =>
      obtain ⟨hrow, -, -, hsteam, -⟩ := hspec.steam hr
      obtain ⟨hnone, hgen⟩ := eligible_steam hel hr
      have hs := h.steam
      rw [hnone] at hs
      rw [hrow, hsteam]
      exact hs.startGrant hgen _
    | dry =>
      obtain ⟨hrow, hsteam, -⟩ := hspec.dry hr
      rw [hrow, hsteam]; exact h.steam
  · rw [hwater] at hw
    cases hr : e.resource with
    | steam =>
      obtain ⟨-, hA, hB, -, hdry, -⟩ := hspec.steam hr
      have hcomp : (s.grantInPass k e []).dry.comp = s.dry.comp := by rw [← hdry]
      rw [hA, hB, hcomp]
      exact h.full hw
    | dry => rw [eligible_dry hel hr] at hw; cases hw

theorem linesLawful_walk : WalkStable (fun s => s.ListLawful ∧ s.LinesLawful) fun _ _ => True where
  entries hr h := ⟨h.1.of_table (fun _ => rfl) hr rfl rfl rfl, h.2.of_table rfl rfl rfl rfl rfl rfl (fun _ => rfl) hr⟩
  off _ h := ⟨h.1.setReheat .., h.2.setReheat ..⟩
  on _ _ h := ⟨h.1.setReheat .., h.2.setReheat ..⟩
  fits _ _ := trivial
  shed _ _ := trivial
  passed _ := trivial
  grant h _ hel hf hres := ⟨h.1.grant hel hf hres, h.2.grant h.1 hel hf⟩

theorem LinesLawful.evaluate (h : s.LinesLawful) (hlist : s.ListLawful) : s.evaluate.LinesLawful :=
  (linesLawful_walk.walk 5 ⟨hlist.of_table (t := s.mapArb Arbiter.evaluating) (fun _ => rfl) (fun _ => .refl _) rfl rfl rfl,
    h.of_table rfl rfl rfl rfl rfl rfl (fun _ => rfl) fun _ => .refl _⟩).2

/-! ## The moves -/

theorem resetAll_lines (cause : ResetCause) (pins : Pins) (s : State) : (s.resetAll cause pins).LinesLawful where
  grants := {
    compressor := ⟨by simp [resetAll, afterReset, Arbiter.afterReset, Arbiter.dryHolders, DryingCircuit.afterReset], rfl⟩
    air := fun j => by
      have hbay : (s.resetAll cause pins).bay j = BayContext.afterReset (pins.lines.doorHigh.get j) := PerBay.get_map ..
      have hair : (s.resetAll cause pins).air j = AirBay.afterReset := PerBay.get_fill ..
      rw [hbay, hair]
      exact ⟨by simp [resetAll, afterReset, Arbiter.afterReset, Arbiter.holdsDry, Arbiter.slotHeldBy, AirBay.damperOn, AirBay.afterReset],
        fun hr => (by cases hr), rfl, rfl, fun _ => rfl⟩
    halts := fun j => by
      have hbay : (s.resetAll cause pins).bay j = BayContext.afterReset (pins.lines.doorHigh.get j) := PerBay.get_map ..
      rw [hbay]
      constructor <;> simp [BayContext.afterReset]
    bypass := fun j => by
      have hreq : (s.resetAll cause pins).arb.requests.get j = none := PerBay.get_fill ..
      rw [hreq]; simp }
  steam := by
    constructor <;> simp [resetAll, afterReset, Arbiter.afterReset, SteamUnit.afterReset]
  drain := by
    constructor <;> simp [resetAll, afterReset, WaterInventory.afterReset]
  full hw := by cases hw

theorem LinesLawful.onlyBay {raise : NoticeSet → NoticeSet} (h : s.LinesLawful) (ho : s.OnlyBay t k raise)
    (hhalts : BayHalts (t.bay k)) : t.LinesLawful where
  grants := h.grants.onlyBay ho hhalts
  steam := by rw [ho.arb, ho.steam]; exact h.steam
  drain := by
    have hwater : t.water = s.water := congrArg Stable.water ho.stable
    rw [hwater]; exact h.drain
  full := by
    have hwater : t.water = s.water := congrArg Stable.water ho.stable
    have hcomp : t.dry.comp = s.dry.comp := by rw [← ho.dry]
    unfold FullStopsDrying
    rw [ho.arb, hwater, hcomp]
    exact h.full

/-- The entry that a leaving bay is left with has a legal bypass count. -/
theorem ReqLeft.bypass {req : Option Entry} (hr : s.ReqLeft k req) (h : ∀ e ∈ s.arb.requests.get k, e.bypass ≤ 3) :
    ∀ e ∈ req, e.bypass ≤ 3 := by
  obtain rfl | rfl | ⟨r, b, rfl⟩ := hr
  · simp
  · exact h
  · exact fresh_bypass r b

theorem move_lines (m : Move s t) (hlist : s.ListLawful) (hlib : s.LibrarySound) (h : s.LinesLawful) : t.LinesLawful := by
  cases m with
  | beside _ hbays harb hsteam hdry hwater =>
    exact h.of_table (by rw [harb]) (by rw [harb]) (by rw [harb]) hsteam hdry hwater (fun j => by rw [bay, hbays]; rfl)
      fun j => by rw [harb]; exact .refl _
  | reset cause pins => exact resetAll_lines cause pins s
  | rules a htable =>
    obtain ⟨hrow, hA, hB, hreq⟩ := by simpa only [Prod.mk.injEq] using htable
    exact h.of_table hA hB hrow rfl rfl rfl (fun _ => rfl) fun j => by simp only [hreq]; exact .refl _
  | settings => exact h.of_table rfl rfl rfl rfl rfl rfl (fun _ => rfl) fun _ => .refl _
  | entries r hr => exact h.of_table rfl rfl rfl rfl rfl rfl (fun _ => rfl) hr
  | contexts bs hf => exact { grants := h.grants.contexts hf, steam := h.steam, drain := h.drain, full := h.full }
  | steam u hu =>
    exact { grants := h.grants.of_table rfl rfl rfl (fun _ => rfl) fun _ => .refl _
            steam := hu h.steam, drain := h.drain, full := h.full }
  | dry d hcomp hspeed hair hreheat =>
    refine { grants := h.grants.dry hcomp hspeed hair hreheat, steam := h.steam, drain := h.drain, full := fun hw => ?_ }
    obtain ⟨hA, hB, hc⟩ := h.full hw
    exact ⟨hA, hB, hcomp.trans hc⟩
  | minOff hc =>
    refine { grants := h.grants.compressorOnly rfl rfl rfl (fun _ => rfl) rfl (h.grants.compressor.minOffExpiry hc _)
             steam := h.steam, drain := h.drain, full := fun hw => ?_ }
    have hoff := (h.full hw).2.2
    rw [hc] at hoff; cases hoff
  | forceStop hstop =>
    exact { grants := h.grants.forceStop hstop, steam := h.steam, drain := h.drain, full := fun hw =>
      have ⟨hA, hB, _⟩ := h.full hw
      ⟨hA, hB, forcedStop_comp ..⟩ }
  | water w hdrain hfull =>
    exact { grants := h.grants.of_table rfl rfl rfl (fun _ => rfl) fun _ => .refl _
            steam := h.steam, drain := hdrain h.drain, full := fun hw => h.full (hfull hw) }
  | tankFull w hdrain =>
    exact LinesRun.onTankFull
      { grants := h.grants.of_table rfl rfl rfl (fun _ => rfl) fun _ => .refl _, steam := h.steam, drain := hdrain h.drain }
      (hlist.of_table (fun _ => rfl) (fun _ => .refl _) rfl rfl rfl)
  | letsGo k req raise hl hreq _ hhalts =>
    exact { toLinesRun := h.toLinesRun.leaves hlist hl.leaves (hhalts (hlist.bays k) (h.grants.halts k)) (hreq.bypass (h.grants.bypass k))
            full := hl.leaves.full h.full }
  | onlyBay k raise ho _ hbay => exact h.onlyBay ho ((hbay (hlist.bays k) hlist.holdersActive hlib).halts (h.grants.halts k))
  | dropEntry k hk => rw [withdraw_of_none (hk (hlist.bays k) hlist.holdersActive)]; exact h
  | revokeSteam k hk =>
    exact { toLinesRun := h.toLinesRun.revokeSteam hlist hk, full := (hlist.revokeSteam hk).1.full h.full }
  | revokeDry k hk =>
    obtain ⟨⟨boost, hl⟩, -⟩ := hlist.revokeDry hk
    exact { toLinesRun := h.toLinesRun.revokeDry hlist hk, full := hl.full h.full }
  | trip cause => exact h.tripGenerator hlist cause
  | reheatOff k r => exact h.setReheat k r
  | evaluate => exact h.evaluate hlist

end Sys2Proof.Machine.State

/-!
PROOFS. The committed draw: what each move makes of it, and why it never exceeds the budget (R73, R77, R78, R80 to R88).
-/

namespace Sys2Proof.Machine

/-! ## The sum of the terms (R73 to R76) -/

theorem ite_le_ite {p q : Bool} (h : p = true → q = true) (n : Nat) : (if p then n else 0) ≤ if q then n else 0 := by
  cases p
  · exact Nat.zero_le _
  · rw [h rfl]

/-- Fewer holders, fewer reheaters and a compressor term no sooner counted draw no more. -/
theorem draw_mono {a b : Arbiter} {c d : CompState} (hst : b.settings = a.settings) (hrow : b.steamRow.isSome = true → a.steamRow.isSome = true)
    (hcounted : b.compressorCounted d = true → a.compressorCounted c = true)
    (hA : Arbiter.slotOn b.slotA = true → Arbiter.slotOn a.slotA = true)
    (hB : Arbiter.slotOn b.slotB = true → Arbiter.slotOn a.slotB = true) : b.draw d ≤ a.draw c := by
  have h1 := ite_le_ite hrow a.settings.steamDraw
  have h2 := ite_le_ite hcounted a.settings.compressorDraw
  have h3 := ite_le_ite hA a.settings.reheaterDraw
  have h4 := ite_le_ite hB a.settings.reheaterDraw
  unfold Arbiter.draw
  rw [hst]
  omega

theorem counted_iff (a : Arbiter) (c : CompState) :
    a.compressorCounted c = true ↔ a.slotA.isSome = true ∨ a.slotB.isSome = true ∨ c = .running ∨ c = .tail := by
  simp [Arbiter.compressorCounted, or_assoc]

/-- With no holder and the compressor neither RUNNING nor in TAIL, the base reserve is all that is drawn. -/
theorem draw_idle {a : Arbiter} {c : CompState} (hrow : a.steamRow = none) (hA : a.slotA = none) (hB : a.slotB = none)
    (hc : a.compressorCounted c = false) : a.draw c = a.settings.baseReserve := by
  simp [Arbiter.draw, hrow, hA, hB, hc, Arbiter.slotOn]

namespace State

variable {s t u : State} {k : Bay}

/-! ## The laws under the bound -/

/-- The power laws but for the bound itself. -/
structure PowerBase (s : State) : Prop where
  ring     : s.RingWhole
  claims   : s.OneClaim
  settings : s.SettingsSound
  before   : s.NoGrantBefore
  waits    : s.StartWaitHeld
  range    : 1000 ≤ s.arb.budget ∧ s.arb.budget ≤ 7200
  draw     : s.arb.committed = s.arb.draw s.dry.comp

theorem powerLawful_iff : s.PowerLawful ↔ s.PowerBase ∧ s.arb.committed ≤ s.arb.budget := by
  constructor
  · rintro ⟨hring, hclaims, hset, hbefore, hwaits, hlo, hhi, hdraw, hle⟩
    exact ⟨⟨hring, hclaims, hset, hbefore, hwaits, ⟨hlo, hhi⟩, hdraw⟩, hle⟩
  · rintro ⟨⟨hring, hclaims, hset, hbefore, hwaits, ⟨hlo, hhi⟩, hdraw⟩, hle⟩
    exact ⟨hring, hclaims, hset, hbefore, hwaits, hlo, hhi, hdraw, hle⟩

/-- From `s` to `t` nothing has been added to the draw: no holder, no reheater, no compressor term. -/
structure PowerShrinks (s t : State) : Prop where
  rules         : t.arb.budget = s.arb.budget ∧ t.arb.settings = s.arb.settings
  commissioning : t.arb.commissioning = .uncommissioned → s.arb.commissioning = .uncommissioned
  ring          : s.RingWhole → t.RingWhole
  claims        : s.OneClaim → t.OneClaim
  row           : t.arb.steamRow.isSome = true → s.arb.steamRow.isSome = true
  slotA         : t.arb.slotA.isSome = true → s.arb.slotA.isSome = true
  slotB         : t.arb.slotB.isSome = true → s.arb.slotB.isSome = true
  onA           : Arbiter.slotOn t.arb.slotA = true → Arbiter.slotOn s.arb.slotA = true
  onB           : Arbiter.slotOn t.arb.slotB = true → Arbiter.slotOn s.arb.slotB = true
  off           : s.dry.comp = .off → t.dry.comp = .off
  waits         : s.StartWaitHeld → t.StartWaitHeld
  counted       : s.StartWaitHeld → t.arb.compressorCounted t.dry.comp = true → s.arb.compressorCounted s.dry.comp = true
  draw          : s.arb.committed = s.arb.draw s.dry.comp → t.arb.committed = t.arb.draw t.dry.comp

theorem PowerShrinks.trans (h : s.PowerShrinks t) (g : t.PowerShrinks u) : s.PowerShrinks u where
  rules := ⟨g.rules.1.trans h.rules.1, g.rules.2.trans h.rules.2⟩
  commissioning := h.commissioning ∘ g.commissioning
  ring := g.ring ∘ h.ring
  claims := g.claims ∘ h.claims
  row := h.row ∘ g.row
  slotA := h.slotA ∘ g.slotA
  slotB := h.slotB ∘ g.slotB
  onA := h.onA ∘ g.onA
  onB := h.onB ∘ g.onB
  off := g.off ∘ h.off
  waits := g.waits ∘ h.waits
  counted hw := h.counted hw ∘ g.counted (h.waits hw)
  draw := g.draw ∘ h.draw

theorem none_of_isSome {α β : Type} {x : Option α} {y : Option β} (h : x.isSome = true → y.isSome = true) (hy : y = none) : x = none := by
  cases x with
  | none => rfl
  | some a => rw [hy] at h; cases h rfl

theorem PowerBase.shrinks (h : s.PowerBase) (g : s.PowerShrinks t) : t.PowerBase where
  ring := g.ring h.ring
  claims := g.claims h.claims
  settings := by
    unfold SettingsSound
    rw [g.rules.2]
    exact h.settings
  before hn := by
    obtain ⟨hrow, hA, hB, hoff⟩ := h.before (g.commissioning hn)
    exact ⟨none_of_isSome g.row hrow, none_of_isSome g.slotA hA, none_of_isSome g.slotB hB, g.off hoff⟩
  waits := g.waits h.waits
  range := by rw [g.rules.1]; exact h.range
  draw := g.draw h.draw

theorem PowerShrinks.committed_le (g : s.PowerShrinks t) (h : s.PowerBase) : t.arb.committed ≤ s.arb.committed := by
  rw [g.draw h.draw, h.draw]
  exact draw_mono g.rules.2 g.row (g.counted h.waits) g.onA g.onB

theorem PowerShrinks.lawful (g : s.PowerShrinks t) (h : s.PowerLawful) : t.PowerLawful := by
  obtain ⟨hbase, hle⟩ := powerLawful_iff.mp h
  refine powerLawful_iff.mpr ⟨hbase.shrinks g, ?_⟩
  rw [g.rules.1]
  exact (g.committed_le hbase).trans hle

/-! ## Claims (R51, R52) -/

theorem toNat_mono {p q : Bool} (h : p = true → q = true) : p.toNat ≤ q.toNat := by
  cases p
  · exact Nat.zero_le _
  · rw [h rfl]

theorem OneClaim.mono (h : s.OneClaim) (hreq : ∀ k : Bay, (t.arb.requests.get k).isSome = true → (s.arb.requests.get k).isSome = true)
    (hsteam : ∀ k, t.arb.holdsSteam k = true → s.arb.holdsSteam k = true)
    (hA : ∀ k, Arbiter.slotHeldBy k t.arb.slotA = true → Arbiter.slotHeldBy k s.arb.slotA = true)
    (hB : ∀ k, Arbiter.slotHeldBy k t.arb.slotB = true → Arbiter.slotHeldBy k s.arb.slotB = true) : t.OneClaim := fun k => by
  have := h k
  have h1 := toNat_mono (hreq k)
  have h2 := toNat_mono (hsteam k)
  have h3 := toNat_mono (hA k)
  have h4 := toNat_mono (hB k)
  omega

/-- A bay that has given up what it held may ask anew. -/
theorem OneClaim.leaves (h : s.OneClaim) (k : Bay)
    (hreq : ∀ j : Bay, j ≠ k → (t.arb.requests.get j).isSome = true → (s.arb.requests.get j).isSome = true)
    (hsteam : ∀ j, t.arb.holdsSteam j = true → s.arb.holdsSteam j = true ∧ j ≠ k)
    (hA : ∀ j, Arbiter.slotHeldBy j t.arb.slotA = true → Arbiter.slotHeldBy j s.arb.slotA = true ∧ j ≠ k)
    (hB : ∀ j, Arbiter.slotHeldBy j t.arb.slotB = true → Arbiter.slotHeldBy j s.arb.slotB = true ∧ j ≠ k) : t.OneClaim := fun j => by
  by_cases hj : j = k
  · have h2 : t.arb.holdsSteam j = false := by simpa using fun hn => (hsteam j hn).2 hj
    have h3 : Arbiter.slotHeldBy j t.arb.slotA = false := by simpa using fun hn => (hA j hn).2 hj
    have h4 : Arbiter.slotHeldBy j t.arb.slotB = false := by simpa using fun hn => (hB j hn).2 hj
    rw [h2, h3, h4]
    exact Bool.toNat_le _
  · have := h j
    have h1 := toNat_mono (hreq j hj)
    have h2 := toNat_mono fun hn => (hsteam j hn).1
    have h3 := toNat_mono fun hn => (hA j hn).1
    have h4 := toNat_mono fun hn => (hB j hn).1
    omega

theorem OneClaim.distinct (h : s.OneClaim) : ∀ a ∈ s.arb.slotA, ∀ b ∈ s.arb.slotB, a.bay ≠ b.bay := by
  rintro a ha b hb hab
  have hone := h a.bay
  rw [Option.mem_def] at ha hb
  simp [Arbiter.slotHeldBy, ha, hb, hab] at hone

theorem slotHeldBy_slotWithout {j : Bay} {d : Option DrySlot} (h : Arbiter.slotHeldBy j (Arbiter.slotWithout k d) = true) :
    Arbiter.slotHeldBy j d = true ∧ j ≠ k := by
  by_cases hj : j = k
  · subst hj; rw [slotWithout_self] at h; cases h
  · rw [slotWithout_other hj] at h; exact ⟨h, hj⟩

theorem slotWithout_isSome (d : Option DrySlot) : (Arbiter.slotWithout k d).isSome = true → d.isSome = true := by
  unfold Arbiter.slotWithout; split <;> simp

theorem slotWithout_on (d : Option DrySlot) : Arbiter.slotOn (Arbiter.slotWithout k d) = true → Arbiter.slotOn d = true := by
  unfold Arbiter.slotWithout; split <;> simp [Arbiter.slotOn]

/-! ## What a holder's end does to the compressor term (R75, R114, R116) -/

theorem stop_comp (d : DryingCircuit) (st : Settings) (n : Nat) :
    ((d.onRelease st n).comp = d.comp ∧ (d.comp = .startWait → 0 < n)) ∨ (d.onRelease st n).comp = .off ∨
      d.comp = .running ∧ (d.onRelease st n).comp = .tail := by
  unfold DryingCircuit.onRelease
  split
  next h =>
    split
    next =>
      split
      next => exact .inr (.inl rfl)
      next => exact .inr (.inr ⟨h, rfl⟩)
    next => exact .inl ⟨rfl, by simp [h]⟩
  next h =>
    split
    next => exact .inr (.inl rfl)
    next hn => exact .inl ⟨rfl, fun _ => Nat.pos_of_ne_zero hn⟩
  next h => exact .inl ⟨rfl, by simp [h]⟩
  next h => exact .inl ⟨rfl, by simp [h]⟩

theorem DryEnds.comp {d d' : DryingCircuit} {st : Settings} {n : Nat} (h : DryEnds d d' st n) :
    (d'.comp = d.comp ∧ (d.comp = .startWait → 0 < n)) ∨ d'.comp = .off ∨ d.comp = .running ∧ d'.comp = .tail := by
  rcases h with rfl | rfl
  · exact stop_comp d st n
  · unfold DryingCircuit.onRevoke
    split
    next => exact .inr (.inl (forcedStop_comp d st))
    next => exact stop_comp d st n

/-- The compressor term of a state whose DRY slots are among those before, by what its compressor has done. -/
theorem compressor_shrinks (hA : t.arb.slotA.isSome = true → s.arb.slotA.isSome = true)
    (hB : t.arb.slotB.isSome = true → s.arb.slotB.isSome = true)
    (hc : (t.dry.comp = s.dry.comp ∧ (s.dry.comp = .startWait → s.StartWaitHeld → 0 < t.arb.dryHolders)) ∨ t.dry.comp = .off ∨
      s.dry.comp = .running ∧ t.dry.comp = .tail) :
    (s.dry.comp = .off → t.dry.comp = .off) ∧ (s.StartWaitHeld → t.StartWaitHeld) ∧
      (t.arb.compressorCounted t.dry.comp = true → s.arb.compressorCounted s.dry.comp = true) := by
  rcases hc with ⟨hsame, hw⟩ | hoff | ⟨hrun, htail⟩
  · refine ⟨fun h => hsame.trans h, fun hs ht => (dryHolders_pos _).mp (hw (hsame.symm.trans ht) hs), fun h => ?_⟩
    rw [counted_iff] at h ⊢
    rw [hsame] at h
    exact h.imp hA (Or.imp_left hB)
  · refine ⟨fun _ => hoff, fun _ ht => (by rw [hoff] at ht; cases ht), fun h => ?_⟩
    rw [counted_iff, hoff] at h
    rw [counted_iff]
    rcases h with h | h | h | h
    · exact .inl (hA h)
    · exact .inr (.inl (hB h))
    · cases h
    · cases h
  · refine ⟨fun h => (by rw [hrun] at h; cases h), fun _ ht => (by rw [htail] at ht; cases ht), fun _ => ?_⟩
    rw [counted_iff]
    exact .inr (.inr (.inl hrun))

/-! ## Moves that add nothing to the draw -/

/-- The table, the rules and the compressor stand as they were; entries may have gone or changed. -/
theorem PowerShrinks.of_table (hrules : (t.arb.budget, t.arb.committed, t.arb.settings) = (s.arb.budget, s.arb.committed, s.arb.settings))
    (htable : (t.arb.steamRow, t.arb.slotA, t.arb.slotB) = (s.arb.steamRow, s.arb.slotA, s.arb.slotB))
    (hcomp : t.dry.comp = s.dry.comp) (hcommissioning : t.arb.commissioning = .uncommissioned → s.arb.commissioning = .uncommissioned)
    (hring : s.RingWhole → t.RingWhole)
    (hreq : ∀ k : Bay, (t.arb.requests.get k).isSome = true → (s.arb.requests.get k).isSome = true) : s.PowerShrinks t := by
  obtain ⟨hbudget, hcommitted, hset⟩ := by simpa only [Prod.mk.injEq] using hrules
  obtain ⟨hrow, hA, hB⟩ := by simpa only [Prod.mk.injEq] using htable
  exact {
    rules := ⟨hbudget, hset⟩, commissioning := hcommissioning, ring := hring
    claims := fun h => OneClaim.mono h hreq (by simp [Arbiter.holdsSteam, hrow]) (by simp [hA]) (by simp [hB])
    row := by rw [hrow]; exact id
    slotA := by rw [hA]; exact id
    slotB := by rw [hB]; exact id
    onA := by rw [hA]; exact id
    onB := by rw [hB]; exact id
    off := by rw [hcomp]; exact id
    waits := by unfold StartWaitHeld; rw [hcomp, hA, hB]; exact id
    counted := fun _ => by unfold Arbiter.compressorCounted; rw [hcomp, hA, hB]; exact id
    draw := by unfold Arbiter.draw Arbiter.compressorCounted; rw [hcommitted, hset, hrow, hA, hB, hcomp]; exact id }

section

variable {req : Option Entry} {raise : NoticeSet → NoticeSet} (h : s.LetsGo t k req raise)

include h

/-- The slots that stand after a release stood before it, and not for the bay that lets go. -/
theorem LetsGo.slots_shrink (hone : s.OneClaim) :
    (∀ j, Arbiter.slotHeldBy j t.arb.slotA = true → Arbiter.slotHeldBy j s.arb.slotA = true ∧ j ≠ k) ∧
      (∀ j, Arbiter.slotHeldBy j t.arb.slotB = true → Arbiter.slotHeldBy j s.arb.slotB = true ∧ j ≠ k) ∧
      (t.arb.slotA.isSome = true → s.arb.slotA.isSome = true) ∧ (t.arb.slotB.isSome = true → s.arb.slotB.isSome = true) ∧
      (Arbiter.slotOn t.arb.slotA = true → Arbiter.slotOn s.arb.slotA = true) ∧
      (Arbiter.slotOn t.arb.slotB = true → Arbiter.slotOn s.arb.slotB = true) := by
  have hslots := h.slots
  have hk := hone k
  unfold slotsLeft at hslots
  split at hslots
  next =>
    obtain ⟨hA, hB⟩ := Prod.mk.inj hslots
    rw [hA, hB]
    exact ⟨fun _ => slotHeldBy_slotWithout, fun _ => slotHeldBy_slotWithout, slotWithout_isSome _, slotWithout_isSome _,
      slotWithout_on _, slotWithout_on _⟩
  next he =>
    obtain ⟨hA, hB⟩ := Prod.mk.inj hslots
    have hno : Arbiter.slotHeldBy k s.arb.slotA = false ∧ Arbiter.slotHeldBy k s.arb.slotB = false := by
      cases hsteam : s.arb.holdsSteam k
      · have hdry : s.arb.holdsDry k = false := by simpa [endsDry, hsteam] using he
        exact Bool.or_eq_false_iff.mp hdry
      · rw [hsteam, Bool.toNat_true] at hk
        exact ⟨Bool.toNat_eq_zero.mp (by omega), Bool.toNat_eq_zero.mp (by omega)⟩
    rw [hA, hB]
    refine ⟨fun j hj => ⟨hj, ?_⟩, fun j hj => ⟨hj, ?_⟩, id, id, id, id⟩
    · rintro rfl; rw [hno.1] at hj; cases hj
    · rintro rfl; rw [hno.2] at hj; cases hj

theorem LetsGo.row_shrinks (j : Bay) (hj : t.arb.holdsSteam j = true) : s.arb.holdsSteam j = true ∧ j ≠ k := by
  have hr := h.row
  split at hr
  next => simp [Arbiter.holdsSteam, hr] at hj
  next hs =>
    have hj' : s.arb.holdsSteam j = true := by simpa [Arbiter.holdsSteam, hr] using hj
    exact ⟨hj', by rintro rfl; exact hs hj'⟩

/-- The compressor after a release: as it was with a holder left, OFF, or in TAIL (R114). -/
theorem LetsGo.comp_shrinks :
    (t.dry.comp = s.dry.comp ∧ (s.dry.comp = .startWait → s.StartWaitHeld → 0 < t.arb.dryHolders)) ∨ t.dry.comp = .off ∨
      s.dry.comp = .running ∧ t.dry.comp = .tail := by
  have hslots := h.slots
  have hd := h.dry
  unfold slotsLeft at hslots
  split at hd
  next he =>
    have hc := DryEnds.comp (d' := { t.dry with air := s.dry.air }) (.inl hd)
    exact hc.imp_left fun ⟨hsame, hpos⟩ => ⟨hsame, fun hw _ => hpos hw⟩
  next he =>
    rw [if_neg he] at hslots
    obtain ⟨hA, hB⟩ := Prod.mk.inj hslots
    have hsame : t.dry.comp = s.dry.comp := by rw [← hd]
    refine .inl ⟨hsame, fun hw hs => ?_⟩
    rw [dryHolders_pos, hA, hB]
    exact hs hw

theorem LetsGo.shrinks (hone : s.OneClaim) : s.PowerShrinks t := by
  obtain ⟨hheldA, hheldB, hsA, hsB, honA, honB⟩ := h.slots_shrink hone
  obtain ⟨hoff, hwaits, hcounted⟩ := compressor_shrinks hsA hsB h.comp_shrinks
  have hst := congrArg Stable.settings h.stable
  have hbudget := congrArg Stable.budget h.stable
  have hcommissioning := congrArg Stable.commissioning h.stable
  exact {
    rules := ⟨hbudget, hst⟩, commissioning := fun hn => hcommissioning.symm.trans hn
    ring := by unfold RingWhole; rw [h.ring]; exact id
    claims := fun _ => OneClaim.leaves hone k (fun j hj => by rw [(h.others j hj).2.2]; exact id) h.row_shrinks hheldA hheldB
    row := fun hs => by
      have hr := h.row
      split at hr
      next => rw [hr] at hs; cases hs
      next => rw [hr] at hs; exact hs
    slotA := hsA, slotB := hsB, onA := honA, onB := honB, off := hoff, waits := hwaits, counted := fun _ => hcounted, draw := h.draw }

end

/-- A revocation reaches the bay and its entry alone of the arbiter's table. -/
theorem revokeBay_arb (s : State) (k : Bay) : ∃ req, (s.revokeBay k).arb = { s.arb with requests := req, evalOwed := true } ∧
    ∀ j, j ≠ k → req.get j = s.arb.requests.get j := by
  have hpost (u : State) : ∃ req e, (u.postRequest k).arb = { u.arb with requests := req, evalOwed := e } ∧
      ∀ j, j ≠ k → req.get j = u.arb.requests.get j := by
    unfold postRequest
    split
    next =>
      split
      next => exact ⟨_, _, rfl, fun j hj => by simp [hj]⟩
      next => exact ⟨_, _, rfl, fun j hj => by simp [hj]⟩
      next => exact ⟨_, _, rfl, fun _ _ => rfl⟩
    next => exact ⟨_, _, rfl, fun _ _ => rfl⟩
  obtain ⟨req, e, harb, hreq⟩ := hpost ((s.mapBay k fun b => { (b.goto .await) with waitElapsed := 0 }).handDemands k)
  exact ⟨req, by simp [revokeBay, harb, Arbiter.owe], hreq⟩

theorem revokeBay_comp (s : State) (k : Bay) : (s.revokeBay k).dry.comp = s.dry.comp := by
  have hpost (u : State) : (u.postRequest k).dry = u.dry := by
    unfold postRequest
    repeat' split
    all_goals rfl
  simp [revokeBay, raiseBay, hpost, handDemands]

theorem revokeSteam_shrinks (hk : s.arb.steamRow = some k) : s.PowerShrinks (s.revokeSteam k) := by
  obtain ⟨req, harb, hreq⟩ := revokeBay_arb (s.endSteam k) k
  have harb' : (s.revokeSteam k).arb = _ := harb
  have hcomp : (s.revokeSteam k).dry.comp = s.dry.comp := revokeBay_comp (s.endSteam k) k
  have hrow : (s.revokeSteam k).arb.steamRow = none := by rw [harb']; rfl
  have hA : (s.revokeSteam k).arb.slotA = s.arb.slotA := by rw [harb']; rfl
  have hB : (s.revokeSteam k).arb.slotB = s.arb.slotB := by rw [harb']; rfl
  have hreq' (j : Bay) (hj : j ≠ k) : (s.revokeSteam k).arb.requests.get j = s.arb.requests.get j := by
    rw [harb']; exact hreq j hj
  exact {
    rules := by rw [harb']; exact ⟨rfl, rfl⟩
    commissioning := by rw [harb']; exact id
    ring := by unfold RingWhole; rw [harb']; exact id
    claims := fun h => by
      have hone := h k
      refine OneClaim.leaves h k (fun j hj => by rw [hreq' j hj]; exact id) (by simp [Arbiter.holdsSteam, hrow])
        (fun j hj => ?_) (fun j hj => ?_)
      · rw [hA] at hj
        refine ⟨hj, ?_⟩
        rintro rfl
        simp [hj, Arbiter.holdsSteam, hk] at hone
        omega
      · rw [hB] at hj
        refine ⟨hj, ?_⟩
        rintro rfl
        simp [hj, Arbiter.holdsSteam, hk] at hone
    row := by rw [hrow]; intro hn; cases hn
    slotA := by rw [hA]; exact id
    slotB := by rw [hB]; exact id
    onA := by rw [hA]; exact id
    onB := by rw [hB]; exact id
    off := by rw [hcomp]; exact id
    waits := by unfold StartWaitHeld; rw [hcomp, hA, hB]; exact id
    counted := fun _ => by unfold Arbiter.compressorCounted; rw [hcomp, hA, hB]; exact id
    draw := fun _ => by rw [hcomp, harb']; rfl }

theorem revokeDry_shrinks (hk : s.arb.holdsDry k = true) : s.PowerShrinks (s.revokeDry k) := by
  obtain ⟨req, harb, hreq⟩ := revokeBay_arb (s.cutDry k) k
  have harb' : (s.revokeDry k).arb = _ := harb
  have hcomp : (s.revokeDry k).dry.comp = (s.cutDry k).dry.comp := revokeBay_comp (s.cutDry k) k
  have hrow : (s.revokeDry k).arb.steamRow = s.arb.steamRow := by rw [harb']; rfl
  obtain ⟨hA, hB⟩ := revokeDry_slots s k
  have hholders : (s.revokeDry k).arb.dryHolders = (s.clearDrySlot k).arb.dryHolders := by
    unfold Arbiter.dryHolders; rw [hA, hB]; rfl
  have hends : DryEnds (s.clearDrySlot k).dry (s.cutDry k).dry s.arb.settings (s.revokeDry k).arb.dryHolders := by
    rw [hholders]; exact .inr rfl
  have hclear : (s.clearDrySlot k).dry.comp = s.dry.comp := rfl
  have hmoved := hends.comp
  rw [hclear, ← hcomp] at hmoved
  have hsA : (s.revokeDry k).arb.slotA.isSome = true → s.arb.slotA.isSome = true := by rw [hA]; exact slotWithout_isSome _
  have hsB : (s.revokeDry k).arb.slotB.isSome = true → s.arb.slotB.isSome = true := by rw [hB]; exact slotWithout_isSome _
  obtain ⟨hoff, hwaits, hcounted⟩ := compressor_shrinks hsA hsB (hmoved.imp_left fun ⟨hsame, hpos⟩ => ⟨hsame, fun hw _ => hpos hw⟩)
  exact {
    rules := by rw [harb']; exact ⟨rfl, rfl⟩
    commissioning := by rw [harb']; exact id
    ring := by unfold RingWhole; rw [harb']; exact id
    claims := fun h => by
      have hone := h k
      refine OneClaim.leaves h k (fun j hj => ?_) (fun j hj => ?_) (fun j hj => ?_) (fun j hj => ?_)
      · have hr : (s.revokeDry k).arb.requests.get j = s.arb.requests.get j := by rw [harb']; exact hreq j hj
        rw [hr]; exact id
      · have hj' : s.arb.holdsSteam j = true := by simpa [Arbiter.holdsSteam, hrow] using hj
        refine ⟨hj', ?_⟩
        rintro rfl
        rw [hj'] at hone
        unfold Arbiter.holdsDry at hk
        cases ha : Arbiter.slotHeldBy j s.arb.slotA <;> cases hb : Arbiter.slotHeldBy j s.arb.slotB <;>
          simp [ha, hb] at hk hone
      · rw [hA] at hj; exact slotHeldBy_slotWithout hj
      · rw [hB] at hj; exact slotHeldBy_slotWithout hj
    row := by rw [hrow]; exact id
    slotA := hsA, slotB := hsB
    onA := by rw [hA]; exact slotWithout_on _
    onB := by rw [hB]; exact slotWithout_on _
    off := hoff, waits := hwaits, counted := fun _ => hcounted
    draw := fun _ => by rw [hcomp, harb']; rfl }

theorem forceStop_shrinks (s : State) : s.PowerShrinks s.forceStop := by
  obtain ⟨hoff, hwaits, hcounted⟩ := compressor_shrinks (s := s) (t := s.forceStop) id id (.inr (.inl (forcedStop_comp ..)))
  exact { rules := ⟨rfl, rfl⟩, commissioning := id, ring := id, claims := id, row := id, slotA := id, slotB := id, onA := id, onB := id
          off := hoff, waits := hwaits, counted := fun _ => hcounted, draw := fun _ => rfl }

theorem slotWith_on {r : Reheat} (hr : r ≠ .on) (d : Option DrySlot) :
    Arbiter.slotOn (Arbiter.slotWith k r d) = true → Arbiter.slotOn d = true := by
  unfold Arbiter.slotWith
  split
  next => simp [Arbiter.slotOn, hr]
  next => exact id

theorem setReheat_comp (s : State) (k : Bay) (r : Reheat) : (s.setReheat k r).dry.comp = s.dry.comp := by
  obtain ⟨-, -, hdry, -⟩ := setReheat_spec s k r
  rw [← hdry]

theorem setReheat_claims (k : Bay) (r : Reheat) (h : s.OneClaim) : (s.setReheat k r).OneClaim := by
  obtain ⟨-, harb, -⟩ := setReheat_spec s k r
  refine OneClaim.mono h (by rw [setReheat_requests]; exact fun _ => id) (fun j => ?_) (fun j => ?_) fun j => ?_
  · unfold Arbiter.holdsSteam; rw [harb]; exact id
  · rw [setReheat_slotA, slotHeldBy_of_bay (slotWith_bay ..)]; exact id
  · rw [setReheat_slotB, slotHeldBy_of_bay (slotWith_bay ..)]; exact id

theorem setReheat_shrinks {r : Reheat} (hr : r ≠ .on) (s : State) (k : Bay) : s.PowerShrinks (s.setReheat k r) := by
  obtain ⟨-, harb, -⟩ := setReheat_spec s k r
  have hcomp := setReheat_comp s k r
  have hA := setReheat_slotA s k r
  have hB := setReheat_slotB s k r
  have hsA : (s.setReheat k r).arb.slotA.isSome = s.arb.slotA.isSome := by rw [hA]; exact isSome_of_bay (slotWith_bay ..)
  have hsB : (s.setReheat k r).arb.slotB.isSome = s.arb.slotB.isSome := by rw [hB]; exact isSome_of_bay (slotWith_bay ..)
  exact {
    rules := by rw [harb]; exact ⟨rfl, rfl⟩
    commissioning := by rw [harb]; exact id
    ring := by unfold RingWhole; rw [harb]; exact id
    claims := setReheat_claims k r
    row := by rw [harb]; exact id
    slotA := by rw [hsA]; exact id
    slotB := by rw [hsB]; exact id
    onA := by rw [hA]; exact slotWith_on hr _
    onB := by rw [hB]; exact slotWith_on hr _
    off := by rw [hcomp]; exact id
    waits := by unfold StartWaitHeld; rw [hcomp, hsA, hsB]; exact id
    counted := fun _ => by unfold Arbiter.compressorCounted; rw [hcomp, hsA, hsB]; exact id
    draw := fun _ => by
      rw [hcomp]
      exact (congrArg Arbiter.committed harb) }

end State
end Sys2Proof.Machine

/-!
PROOFS. The draw stays within the budget: through grants, whose fit has been tested, and through a budget fall, whose shed ends below
the new budget (R61, R73, R77, R78, R80 to R88).
-/

namespace Sys2Proof.Machine.State

variable {s t : State} {k : Bay}

theorem fits_iff (s : State) (e : Entry) : s.fits e = true ↔ s.arb.committed + s.addedDraw e ≤ s.arb.budget := by simp [fits]

theorem ite_le_self (p : Bool) (n : Nat) : (if p then n else 0) ≤ n := by split <;> omega

/-! ## Reheat statuses along a shed (R81, R88) -/

theorem shedReheat_stops (more : State → Bool) (l : List Bay) (h : more s = false) : shedReheat more l s = s := by
  induction l with
  | nil => rfl
  | cons k rest ih => rw [shedReheat, if_neg (by simp [h]), ih]

/-- A reheater that is not ON is not turned ON by a shed. -/
theorem shedReheat_not_on (more : State → Bool) (l : List Bay) {j : Bay} (h : s.arb.reheatOf j ≠ some .on) :
    (shedReheat more l s).arb.reheatOf j ≠ some .on := by
  induction l generalizing s with
  | nil => exact h
  | cons k rest ih =>
    unfold shedReheat
    split
    next =>
      refine ih ?_
      by_cases hj : j = k
      · subst hj
        rw [setReheat_reheatOf_self]
        cases s.arb.reheatOf j <;> simp
      · rw [setReheat_reheatOf_other s hj]; exact h
    next => exact ih h

/-- A shed ends because it is no longer asked for, or with no reheater of the list ON. -/
theorem shedReheat_ends (more : State → Bool) (l : List Bay) (s : State) :
    more (shedReheat more l s) = false ∨ ∀ j ∈ l, (shedReheat more l s).arb.reheatOf j ≠ some .on := by
  induction l generalizing s with
  | nil => exact .inr (by simp)
  | cons k rest ih =>
    have hrest {u : State} (hk : u.arb.reheatOf k ≠ some .on) : more (shedReheat more rest u) = false ∨
        ∀ j ∈ k :: rest, (shedReheat more rest u).arb.reheatOf j ≠ some .on :=
      (ih u).imp_right fun h => List.forall_mem_cons.mpr ⟨shedReheat_not_on more rest hk, h⟩
    by_cases hm : more s = true
    · unfold shedReheat
      split
      next =>
        refine hrest ?_
        rw [setReheat_reheatOf_self]
        cases s.arb.reheatOf k <;> simp
      next hn => exact hrest fun hon => hn (by simp [hm, hon])
    · have hno : more s = false := by simpa using hm
      rw [shedReheat_stops more _ hno]
      exact .inl hno

theorem mem_ring (h : s.RingWhole) (k : Bay) : k ∈ s.arb.ring := by
  rw [h.mem_iff]
  match k with
  | 0 | 1 | 2 | 3 => decide

/-- With no bay's reheat status ON no slot's is. -/
theorem slots_not_on (hone : s.OneClaim) (h : ∀ j, s.arb.reheatOf j ≠ some .on) :
    Arbiter.slotOn s.arb.slotA = false ∧ Arbiter.slotOn s.arb.slotB = false := by
  constructor
  · cases hA : s.arb.slotA with
    | none => rfl
    | some a =>
      have ha := h a.bay
      simp [Arbiter.reheatOf, Arbiter.slotHeldBy, hA] at ha
      simpa [Arbiter.slotOn] using ha
  · cases hB : s.arb.slotB with
    | none => rfl
    | some b =>
      have hb := h b.bay
      have hno : Arbiter.slotHeldBy b.bay s.arb.slotA = false := by
        cases hA : s.arb.slotA with
        | none => rfl
        | some a => simpa [Arbiter.slotHeldBy] using hone.distinct a hA b hB
      simp [Arbiter.reheatOf, hno, hB, slotHeldBy_iff] at hb
      simpa [Arbiter.slotOn] using hb

theorem shedReheat_shrinks (more : State → Bool) (l : List Bay) (s : State) : s.PowerShrinks (shedReheat more l s) := by
  induction l generalizing s with
  | nil => exact .of_table rfl rfl rfl id id fun _ => id
  | cons k rest ih =>
    unfold shedReheat
    split
    next => exact (setReheat_shrinks (by simp) s k).trans (ih _)
    next => exact ih s

theorem shedReheat_comp (more : State → Bool) (l : List Bay) (s : State) : (shedReheat more l s).dry.comp = s.dry.comp := by
  induction l generalizing s with
  | nil => rfl
  | cons k rest ih =>
    unfold shedReheat
    split
    next => rw [ih, setReheat_comp]
    next => exact ih s

/-! ## A stall that the shed lifts (R65, R88) -/

/-- The draw with every reheater off. -/
theorem draw_unheated {a b : Arbiter} (c : CompState) (hst : b.settings = a.settings) (hrow : b.steamRow = a.steamRow)
    (hcounted : b.compressorCounted c = a.compressorCounted c) (hA : Arbiter.slotOn b.slotA = false)
    (hB : Arbiter.slotOn b.slotB = false) :
    b.draw c = a.draw c - ((if Arbiter.slotOn a.slotA then a.settings.reheaterDraw else 0) +
      (if Arbiter.slotOn a.slotB then a.settings.reheaterDraw else 0)) := by
  simp only [Arbiter.draw, hst, hrow, hcounted, hA, hB, Bool.false_eq_true, if_false]
  omega

theorem counted_shedReheat (more : State → Bool) (l : List Bay) (s : State) :
    (shedReheat more l s).arb.compressorCounted (shedReheat more l s).dry.comp = s.arb.compressorCounted s.dry.comp := by
  obtain ⟨-, hA, hB⟩ := shedReheat_slots s more l
  unfold Arbiter.compressorCounted
  rw [shedReheat_comp, isSome_of_bay hA, isSome_of_bay hB]

theorem addedDraw_shedReheat (more : State → Bool) (l : List Bay) (s : State) (e : Entry) :
    (shedReheat more l s).addedDraw e = s.addedDraw e := by
  unfold addedDraw
  rw [counted_shedReheat, (shedReheat_shrinks more l s).rules.2]

/-- The shed makes room for an entry that fits with every reheater off. -/
theorem fits_after_shed (hring : s.RingWhole) (hone : s.OneClaim) (hdraw : s.arb.committed = s.arb.draw s.dry.comp) {e : Entry}
    (h : s.fitsUnheated e = true) : (shedReheat (fun t => !t.fits e) s.arb.ring.reverse s).fits e = true := by
  obtain hstop | hoff := shedReheat_ends (fun t => !t.fits e) s.arb.ring.reverse s
  · simpa using hstop
  · have hshrinks := shedReheat_shrinks (fun t => !t.fits e) s.arb.ring.reverse s
    obtain ⟨hrow, -, -⟩ := shedReheat_slots s (fun t => !t.fits e) s.arb.ring.reverse
    obtain ⟨hA, hB⟩ := slots_not_on (hshrinks.claims hone) fun j => hoff j (List.mem_reverse.mpr (mem_ring hring j))
    have hcounted := counted_shedReheat (fun t => !t.fits e) s.arb.ring.reverse s
    have hcomp := shedReheat_comp (fun t => !t.fits e) s.arb.ring.reverse s
    have hnew := hshrinks.draw hdraw
    rw [hcomp] at hcounted hnew
    rw [draw_unheated s.dry.comp hshrinks.rules.2 hrow hcounted hA hB] at hnew
    rw [fits_iff, hnew, addedDraw_shedReheat, hshrinks.rules.1, ← hdraw]
    simpa [fitsUnheated] using h

/-! ## Reheat turned ON, and a grant -/

/-- A reheat status that comes to ON adds one reheater's draw at most (R73). -/
theorem setReheat_on_draw_le (s : State) (k : Bay) (hclaims : s.OneClaim) :
    (s.setReheat k .on).arb.draw s.dry.comp ≤ s.arb.draw s.dry.comp + s.arb.settings.reheaterDraw := by
  obtain ⟨-, harb, -⟩ := setReheat_spec s k .on
  have hA := setReheat_slotA s k .on
  have hB := setReheat_slotB s k .on
  have hrow : (s.setReheat k .on).arb.steamRow = s.arb.steamRow := by rw [harb]
  have hset : (s.setReheat k .on).arb.settings = s.arb.settings := by rw [harb]
  have hsA : (s.setReheat k .on).arb.slotA.isSome = s.arb.slotA.isSome := by rw [hA]; exact isSome_of_bay (slotWith_bay ..)
  have hsB : (s.setReheat k .on).arb.slotB.isSome = s.arb.slotB.isSome := by rw [hB]; exact isSome_of_bay (slotWith_bay ..)
  have hcounted : (s.setReheat k .on).arb.compressorCounted s.dry.comp = s.arb.compressorCounted s.dry.comp := by
    unfold Arbiter.compressorCounted; rw [hsA, hsB]
  have hchanged (d : Option DrySlot) (hd : Arbiter.slotHeldBy k d = false) : Arbiter.slotWith k .on d = d := by
    unfold Arbiter.slotWith; rw [if_neg (by simp [hd])]
  unfold Arbiter.draw
  rw [hrow, hcounted, hset, hA, hB]
  cases ha : Arbiter.slotHeldBy k s.arb.slotA with
  | false =>
    have := ite_le_self (Arbiter.slotOn (Arbiter.slotWith k .on s.arb.slotB)) s.arb.settings.reheaterDraw
    rw [hchanged _ ha]
    omega
  | true =>
    have hb : Arbiter.slotHeldBy k s.arb.slotB = false := by
      have hk := hclaims k
      rw [ha] at hk
      cases hb : Arbiter.slotHeldBy k s.arb.slotB
      · rfl
      · simp [hb] at hk
    have := ite_le_self (Arbiter.slotOn (Arbiter.slotWith k .on s.arb.slotA)) s.arb.settings.reheaterDraw
    rw [hchanged _ hb]
    omega

theorem setReheat_on_lawful (k : Bay) (hfits : s.reheatFits = true) (h : s.PowerLawful) :
    (s.setReheat k .on).PowerLawful := by
  obtain ⟨hbase, -⟩ := powerLawful_iff.mp h
  obtain ⟨-, harb, -⟩ := setReheat_spec s k .on
  have hcomp := setReheat_comp s k .on
  have hA := setReheat_slotA s k .on
  have hB := setReheat_slotB s k .on
  have hrow : (s.setReheat k .on).arb.steamRow = s.arb.steamRow := by rw [harb]
  have hsA : (s.setReheat k .on).arb.slotA.isSome = s.arb.slotA.isSome := by rw [hA]; exact isSome_of_bay (slotWith_bay ..)
  have hsB : (s.setReheat k .on).arb.slotB.isSome = s.arb.slotB.isSome := by rw [hB]; exact isSome_of_bay (slotWith_bay ..)
  have hset : (s.setReheat k .on).arb.settings = s.arb.settings := by rw [harb]
  have hbudget : (s.setReheat k .on).arb.budget = s.arb.budget := by rw [harb]
  have hdraw : (s.setReheat k .on).arb.committed = (s.setReheat k .on).arb.draw s.dry.comp := congrArg Arbiter.committed harb
  have hle := s.setReheat_on_draw_le k hbase.claims
  refine powerLawful_iff.mpr ⟨?_, ?_⟩
  · exact {
      ring := by unfold RingWhole; rw [harb]; exact hbase.ring
      claims := setReheat_claims k _ hbase.claims
      settings := by unfold SettingsSound; rw [hset]; exact hbase.settings
      before := fun hn => by
        have hn' : s.arb.commissioning = .uncommissioned := by rw [harb] at hn; exact hn
        obtain ⟨hr, ha, hb, hc⟩ := hbase.before hn'
        exact ⟨hrow.trans hr, by rw [hA, ha]; rfl, by rw [hB, hb]; rfl, hcomp.trans hc⟩
      waits := by unfold StartWaitHeld; rw [hcomp, hsA, hsB]; exact hbase.waits
      range := by rw [hbudget]; exact hbase.range
      draw := by rw [hcomp]; exact hdraw }
  · unfold reheatFits at hfits
    have hfit : s.arb.committed + s.arb.settings.reheaterDraw ≤ s.arb.budget := by simpa using hfits
    rw [hdraw, hbudget]
    have := hbase.draw
    omega

theorem requests_hold_nothing (hone : s.OneClaim) {f : Entry} (hf : s.arb.requests.get k = some f) :
    s.arb.holdsSteam k = false ∧ Arbiter.slotHeldBy k s.arb.slotA = false ∧ Arbiter.slotHeldBy k s.arb.slotB = false := by
  have hk := hone k
  rw [hf, Option.isSome_some, Bool.toNat_true] at hk
  exact ⟨Bool.toNat_eq_zero.mp (by omega), Bool.toNat_eq_zero.mp (by omega), Bool.toNat_eq_zero.mp (by omega)⟩

theorem eligible_commissioned {e : Entry} (h : s.eligible k e = true) : s.arb.commissioning = .commissioned := by
  simp [eligible] at h
  exact h.1.1

theorem rotated_ring (k : Bay) (h : s.RingWhole) : (s.arb.ring.filter (· ≠ k) ++ [k]).Perm [0, 1, 2, 3] :=
  (List.perm_append_singleton ..).trans (promote_ring k h)

/-- The draw of a granted entry: its added draw, and its reheater's where that fits (R61, R86). -/
theorem GrantsInPass.draw_le {e : Entry} {q : List Bay} (h : s.GrantsInPass t k e q)
    (hfree : e.resource = .dry → s.arb.slotA = none ∨ s.arb.slotB = none)
    (hfit : s.arb.draw s.dry.comp + s.addedDraw e ≤ s.arb.budget) : t.arb.draw t.dry.comp ≤ s.arb.budget := by
  have hset : t.arb.settings = s.arb.settings := congrArg Stable.settings h.stable
  cases hr : e.resource with
  | steam =>
    obtain ⟨hnew, hA, hB, -, hdry, -⟩ := h.steam hr
    have hcounted : t.arb.compressorCounted t.dry.comp = s.arb.compressorCounted s.dry.comp := by
      have hcomp : t.dry.comp = s.dry.comp := by rw [← hdry]
      unfold Arbiter.compressorCounted; rw [hA, hB, hcomp]
    have hadded : s.addedDraw e = s.arb.settings.steamDraw := by simp [addedDraw, hr]
    unfold Arbiter.draw at hfit ⊢
    rw [hset, hcounted, hA, hB, hnew, Option.isSome_some, if_pos rfl]
    rw [hadded] at hfit
    omega
  | dry =>
    obtain ⟨hrow', -⟩ := h.dry hr
    obtain ⟨r, hfitR, hslots⟩ := h.slots_fit hr
    have hcounted : t.arb.compressorCounted t.dry.comp = true := by
      rw [counted_iff]
      rcases hslots with ⟨-, hA, -⟩ | ⟨-, -, hB⟩
      · exact .inl (by rw [hA]; rfl)
      · exact .inr (.inl (by rw [hB]; rfl))
    have hcomp : (if s.arb.compressorCounted s.dry.comp then s.arb.settings.compressorDraw else 0) + s.addedDraw e =
        s.arb.settings.compressorDraw := by
      simp only [addedDraw, hr]; split <;> omega
    have hheat : (if Arbiter.slotOn (some ⟨k, r⟩) then s.arb.settings.reheaterDraw else 0) +
        (s.arb.draw s.dry.comp + s.addedDraw e) ≤ s.arb.budget := by
      split
      next hon =>
        have := hfitR (by simpa [Arbiter.slotOn] using hon)
        omega
      next => omega
    unfold Arbiter.draw at hheat ⊢
    rw [hset, hcounted, hrow', if_pos rfl]
    rcases hslots with ⟨hnone, hA, hB⟩ | ⟨hsome, hA, hB⟩
    · rw [hA, hB]
      rw [hnone] at hheat
      omega
    · have hnone : s.arb.slotB = none := (hfree hr).resolve_left hsome
      rw [hA, hB]
      rw [hnone] at hheat
      omega

end Sys2Proof.Machine.State

/-!
PROOFS. Each move keeps the power laws, and so does a budget fall with its shed.
-/

namespace Sys2Proof.Machine.State

variable {s t : State} {k : Bay}

/-- `PowerShrinks.of_table` as it is used: the power laws go with the table, the rules and the compressor. -/
theorem PowerLawful.of_table (h : s.PowerLawful)
    (hrules : (t.arb.budget, t.arb.committed, t.arb.settings) = (s.arb.budget, s.arb.committed, s.arb.settings))
    (htable : (t.arb.steamRow, t.arb.slotA, t.arb.slotB) = (s.arb.steamRow, s.arb.slotA, s.arb.slotB))
    (hcomp : t.dry.comp = s.dry.comp) (hcommissioning : t.arb.commissioning = .uncommissioned → s.arb.commissioning = .uncommissioned)
    (hring : s.RingWhole → t.RingWhole)
    (hreq : ∀ k : Bay, (t.arb.requests.get k).isSome = true → (s.arb.requests.get k).isSome = true) : t.PowerLawful :=
  (PowerShrinks.of_table hrules htable hcomp hcommissioning hring hreq).lawful h

/-! ## An evaluation -/

/-- A grant moves the bay's one claim from the list to the row or to the free slot (R51, R52). -/
theorem GrantsInPass.oneClaim {e f : Entry} (hspec : s.GrantsInPass t k e []) (hclaims : s.OneClaim)
    (hel : s.eligible k e = true) (hf : s.arb.requests.get k = some f) : t.OneClaim := by
  obtain ⟨hsteam, hheldA, hheldB⟩ := requests_hold_nothing hclaims hf
  have hfree := eligible_slot hel
  intro j
  have hone := hclaims j
  have hreq := hspec.requests j
  cases hr : e.resource with
  | steam =>
    obtain ⟨hrow, hA, hB, -⟩ := hspec.steam hr
    by_cases hj : j = k
    · subst hj
      simp [hreq, hA, hB, hheldA, hheldB, Arbiter.holdsSteam, hrow]
    · have hnone := (eligible_steam hel hr).1
      simp [hreq, hj, hA, hB, Arbiter.holdsSteam, hrow, hnone, Ne.symm hj] at hone ⊢
      exact hone
  | dry =>
    obtain ⟨hrow, -⟩ := hspec.dry hr
    have hnew (r : Reheat) : Arbiter.slotHeldBy j (some ⟨k, r⟩) = decide (k = j) := rfl
    obtain ⟨r, ⟨hnone, hA, hB⟩ | ⟨hsome, hA, hB⟩⟩ := hspec.slots hr
    · by_cases hj : j = k
      · subst hj
        simp [hreq, hA, hB, hnew, hheldB, Arbiter.holdsSteam, hrow] at hsteam ⊢
        simp [hsteam]
      · simp [hreq, hj, hA, hB, hnew, Arbiter.holdsSteam, hrow, hnone, slotHeldBy_none, Ne.symm hj] at hone ⊢
        exact hone
    · have hnone : s.arb.slotB = none := (hfree hr).resolve_left hsome
      by_cases hj : j = k
      · subst hj
        simp [hreq, hA, hB, hnew, hheldA, Arbiter.holdsSteam, hrow] at hsteam ⊢
        simp [hsteam]
      · simp [hreq, hj, hA, hB, hnew, Arbiter.holdsSteam, hrow, hnone, slotHeldBy_none, Ne.symm hj] at hone ⊢
        exact hone

theorem PowerLawful.grant (h : s.PowerLawful) {e f : Entry} (hfit : s.fits e = true) (hel : s.eligible k e = true)
    (hf : s.arb.requests.get k = some f) : (s.grantInPass k e []).PowerLawful := by
  obtain ⟨hbase, -⟩ := powerLawful_iff.mp h
  obtain ⟨-, hheldA, hheldB⟩ := requests_hold_nothing hbase.claims hf
  have hfree := eligible_slot hel
  have hspec : s.GrantsInPass (s.grantInPass k e []) k e [] :=
    grantInPass_spec s k e [] List.nodup_nil (by simp [Arbiter.holdsDry, hheldA, hheldB]) hfree
  generalize s.grantInPass k e [] = t at hspec ⊢
  have hset : t.arb.settings = s.arb.settings := congrArg Stable.settings hspec.stable
  have hbudget : t.arb.budget = s.arb.budget := congrArg Stable.budget hspec.stable
  have hcommissioning : t.arb.commissioning = s.arb.commissioning := congrArg Stable.commissioning hspec.stable
  refine powerLawful_iff.mpr ⟨?_, ?_⟩
  · exact {
      ring := by
        unfold RingWhole
        rw [hspec.ring]
        split
        next => exact rotated_ring k hbase.ring
        next => exact hbase.ring
      claims := hspec.oneClaim hbase.claims hel hf
      settings := by unfold SettingsSound; rw [hset]; exact hbase.settings
      before := fun hn => by rw [hcommissioning, eligible_commissioned hel] at hn; cases hn
      waits := fun hw => by
        cases hr : e.resource with
        | steam =>
          obtain ⟨-, hA, hB, -, hdry, -⟩ := hspec.steam hr
          have hcomp : t.dry.comp = s.dry.comp := by rw [← hdry]
          rw [hA, hB]
          exact hbase.waits (hcomp.symm.trans hw)
        | dry =>
          obtain ⟨r, ⟨-, hA, -⟩ | ⟨-, -, hB⟩⟩ := hspec.slots hr
          · exact .inl (by rw [hA]; rfl)
          · exact .inr (by rw [hB]; rfl)
      range := by rw [hbudget]; exact hbase.range
      draw := hspec.draw }
  · rw [hspec.draw, hbudget]
    exact hspec.draw_le hfree (by rw [← hbase.draw]; exact (fits_iff s e).mp hfit)

theorem entries_shrinks {r : PerBay (Option Entry)} (h : ∀ k : Bay, EntryFollows (s.arb.requests.get k) (r.get k)) :
    s.PowerShrinks (s.mapArb fun a => { a with requests := r }) :=
  .of_table rfl rfl rfl id id fun j => by
    have hj := (h j).isSome
    simp [hj]

theorem powerLawful_walk : WalkStable PowerLawful fun s e => s.fits e = true where
  entries hr := (entries_shrinks hr).lawful
  off _ := (setReheat_shrinks (by simp) ..).lawful
  on _ hfits h := setReheat_on_lawful _ hfits h
  fits _ h := h
  shed h hun :=
    have hbase := (powerLawful_iff.mp h).1
    fits_after_shed hbase.ring hbase.claims hbase.draw hun
  passed h := h
  grant h hfit hel hf _ := h.grant hfit hel hf

theorem PowerLawful.evaluate (h : s.PowerLawful) : s.evaluate.PowerLawful :=
  powerLawful_walk.walk 5 (h.of_table (t := s.mapArb Arbiter.evaluating) rfl rfl rfl id id fun _ => id)

theorem PowerLawful.oweAndSettle (h : s.PowerLawful) : s.oweAndSettle.PowerLawful :=
  PowerLawful.evaluate (h.of_table (t := s.mapArb Arbiter.owe) rfl rfl rfl id id fun _ => id)

/-! ## The moves -/

theorem inRange_base {st : Settings} (h : st.inRange = true) : st.baseReserve ≤ 1000 := by
  simp only [Settings.inRange, Bool.and_eq_true, decide_eq_true_eq] at h
  omega

theorem defaults_sound : Settings.defaults.inRange = true ∧ Settings.defaults.marksOrdered = true := by decide

theorem resetAll_power (cause : ResetCause) (pins : Pins) (s : State) : (s.resetAll cause pins).PowerLawful where
  ring := .refl _
  claims k := by
    simp [resetAll, afterReset, Arbiter.afterReset, Arbiter.holdsSteam, Arbiter.slotHeldBy]
  settings := defaults_sound
  before _ := ⟨rfl, rfl, rfl, rfl⟩
  waits h := by cases h
  budget := ⟨(by decide : 1000 ≤ 3000), (by decide : 3000 ≤ 7200), rfl, (by decide : 250 ≤ 3000)⟩

/-- A new record before COMMISSION leaves its base reserve as the draw (R50, R73, R178). -/
theorem PowerLawful.setPlant {st : Settings} (h : s.PowerLawful) (hfirst : s.arb.commissioning = .uncommissioned)
    (hrange : st.inRange = true) (hmarks : st.marksOrdered = true) :
    ((s.mapArb fun a => { a with settings := st }).refreshDraw).PowerLawful := by
  obtain ⟨hbase, -⟩ := powerLawful_iff.mp h
  obtain ⟨hrow, hA, hB, hoff⟩ := hbase.before hfirst
  have hdraw : ({ s.arb with settings := st } : Arbiter).draw s.dry.comp = st.baseReserve :=
    draw_idle hrow hA hB (by simp [Arbiter.compressorCounted, hA, hB, hoff])
  refine powerLawful_iff.mpr ⟨{ ring := hbase.ring, claims := hbase.claims, settings := ⟨hrange, hmarks⟩, before := hbase.before
                                waits := hbase.waits, range := hbase.range, draw := rfl }, ?_⟩
  change ({ s.arb with settings := st } : Arbiter).draw s.dry.comp ≤ s.arb.budget
  rw [hdraw]
  exact (inRange_base hrange).trans hbase.range.1

theorem PowerLawful.onTankFull (h : s.PowerLawful) : s.onTankFull.PowerLawful :=
  onTankFull_keeps (fun hk h => (revokeDry_shrinks hk).lawful h) (fun _ _ h => (forceStop_shrinks _).lawful h)
    (fun h => h.of_table rfl rfl rfl id id fun _ => id)
    (fun h => h.of_table rfl rfl rfl id id fun _ => id) h.claims.distinct h

theorem tripGenerator_shrinks (cause : TripCause) (s : State) : s.PowerShrinks (s.tripGenerator cause) := by
  have htripped : s.PowerShrinks (s.mapSteam (SteamUnit.trip s.arb.settings cause s.arb.steamRow)) :=
    .of_table rfl rfl rfl id id fun _ => id
  have hrevoked : s.PowerShrinks (match s.arb.steamRow with
      | some k => (s.mapSteam (SteamUnit.trip s.arb.settings cause s.arb.steamRow)).revokeSteam k
      | none => s.mapSteam (SteamUnit.trip s.arb.settings cause s.arb.steamRow)) := by
    split
    next k hk => exact htripped.trans (revokeSteam_shrinks hk)
    next => exact htripped
  exact hrevoked.trans (.of_table rfl rfl rfl id id fun _ => id)

theorem minOff_shrinks (h : s.dry.comp = .startWait) :
    s.PowerShrinks (s.mapDry (DryingCircuit.minOffExpiry s.arb.settings s.arb.dryHolders)).refreshDraw where
  rules := ⟨rfl, rfl⟩
  commissioning := id
  ring := id
  claims := id
  row := id
  slotA := id
  slotB := id
  onA := id
  onB := id
  off hc := by rw [h] at hc; cases hc
  waits _ hw := by cases hw
  counted hw _ := (counted_iff _ _).mpr ((hw h).imp_right .inl)
  draw _ := rfl

theorem withdraw_shrinks (k : Bay) (s : State) : s.PowerShrinks (s.withdraw k) := by
  obtain ⟨e, he⟩ := withdraw_eq s k
  rw [he]
  refine .of_table rfl rfl rfl id id fun j => ?_
  simp only [mapArb_arb, PerBay.get_set]
  split
  next => simp
  next => exact id

theorem move_power (m : Move s t) (h : s.PowerLawful) : t.PowerLawful := by
  cases m with
  | beside _ _ harb _ hdry =>
    exact h.of_table (by rw [harb]) (by rw [harb]) (by rw [hdry]) (by rw [harb]; exact id)
      (by unfold RingWhole; rw [harb]; exact id) fun j => by rw [harb]; exact id
  | reset cause pins => exact resetAll_power cause pins s
  | rules a htable hpower hring hcommissioning =>
    obtain ⟨hrow, hA, hB, hreq⟩ := by simpa only [Prod.mk.injEq] using htable
    exact h.of_table (t := { s with arb := a }) hpower (by simp only [hrow, hA, hB]) rfl hcommissioning hring
      fun j => by simp only [hreq]; exact id
  | settings st hfirst hrange hmarks => exact h.setPlant hfirst hrange hmarks
  | entries r hr => exact (entries_shrinks hr).lawful h
  | contexts => exact h.of_table rfl rfl rfl id id fun _ => id
  | steam => exact h.of_table rfl rfl rfl id id fun _ => id
  | dry d hcomp => exact h.of_table rfl rfl hcomp id id fun _ => id
  | minOff hc => exact (minOff_shrinks hc).lawful h
  | forceStop => exact (forceStop_shrinks s).lawful h
  | water => exact h.of_table rfl rfl rfl id id fun _ => id
  | tankFull w =>
    exact PowerLawful.onTankFull (h.of_table (t := { s with water := w }) rfl rfl rfl id id fun _ => id)
  | letsGo k req raise hl => exact (hl.shrinks h.claims).lawful h
  | onlyBay k raise ho =>
    have harb := ho.arb
    have hcomp : t.dry.comp = s.dry.comp := by rw [← ho.dry]
    exact h.of_table (by rw [harb]) (by rw [harb]) hcomp (by rw [harb]; exact id)
      (by unfold RingWhole; rw [harb]; exact id) fun j => by rw [harb]; exact id
  | dropEntry k => exact (withdraw_shrinks k s).lawful h
  | revokeSteam k hk => exact (revokeSteam_shrinks hk).lawful h
  | revokeDry k hk => exact (revokeDry_shrinks hk).lawful h
  | trip cause => exact (tripGenerator_shrinks cause s).lawful h
  | reheatOff k r hr => exact (setReheat_shrinks hr s k).lawful h
  | evaluate => exact h.evaluate

/-! ## A budget fall (R80 to R84) -/

/-- With no DRY holder the compressor is not counted. -/
def TailStopped (s : State) : Prop :=
  s.arb.slotA = none → s.arb.slotB = none → s.arb.compressorCounted s.dry.comp = false

theorem not_overBudget_iff : s.overBudget = false ↔ s.arb.committed ≤ s.arb.budget := by simp [overBudget]

theorem shedTail_ends (s : State) : s.shedTail.overBudget = false ∨ s.shedTail.TailStopped := by
  unfold shedTail
  split
  next h =>
    right
    intro hA hB
    have hcomp : s.forceStop.dry.comp = .off := forcedStop_comp ..
    simp [Arbiter.compressorCounted, hA, hB, hcomp]
  next h =>
    by_cases ho : s.overBudget = true
    · right
      intro hA hB
      exact absurd ⟨ho, by simp [hA], by simp [hB]⟩ h
    · left; simpa using ho

theorem revokeDry_tailStopped (s : State) (k : Bay) : (s.revokeDry k).TailStopped := by
  intro hA hB
  have hcomp : (s.revokeDry k).dry.comp = (s.cutDry k).dry.comp := revokeBay_comp (s.cutDry k) k
  obtain ⟨hA', hB'⟩ := revokeDry_slots s k
  have hzero : (s.clearDrySlot k).arb.dryHolders = 0 := dryHolders_zero.mpr ⟨hA'.symm.trans hA, hB'.symm.trans hB⟩
  have hoff : (s.cutDry k).dry.comp = .off := by
    have hcut : (s.cutDry k).dry = (s.clearDrySlot k).dry.onRevoke s.arb.settings (s.clearDrySlot k).arb.dryHolders := rfl
    rw [hcut, hzero]
    exact forcedStop_comp ..
  simp [Arbiter.compressorCounted, hA, hB, hcomp, hoff]

theorem shedDry_stops (l : List Bay) (h : s.overBudget = false) : shedDry l s = s := by
  induction l with
  | nil => rfl
  | cons k rest ih => rw [shedDry, if_neg (by simp [h]), ih]

/-- A DRY holder of the list is gone, or the shed has ended before it. -/
theorem shedDry_ends (l : List Bay) (s : State) (h : s.overBudget = false ∨ s.TailStopped) :
    (shedDry l s).overBudget = false ∨
      (shedDry l s).TailStopped ∧ ∀ j, (shedDry l s).arb.holdsDry j = true → s.arb.holdsDry j = true ∧ j ∉ l := by
  induction l generalizing s with
  | nil => exact h.imp_right fun ht => ⟨ht, by simp [shedDry]⟩
  | cons k rest ih =>
    by_cases ho : s.overBudget = true
    · have ht : s.TailStopped := h.resolve_left (by simp [ho])
      unfold shedDry
      split
      next =>
        refine (ih _ (.inr (revokeDry_tailStopped s k))).imp_right fun ⟨ht', hrest⟩ => ⟨ht', fun j hj => ?_⟩
        obtain ⟨hheld, hmem⟩ := hrest j hj
        have hjk : j ≠ k := by
          rintro rfl
          obtain ⟨hA, hB⟩ := revokeDry_slots s j
          simp [Arbiter.holdsDry, hA, hB, slotWithout_self] at hheld
        rw [revokeDry_holdsDry_other s hjk] at hheld
        exact ⟨hheld, by simp [hjk, hmem]⟩
      next hn =>
        refine (ih _ (.inr ht)).imp_right fun ⟨ht', hrest⟩ => ⟨ht', fun j hj => ?_⟩
        obtain ⟨hheld, hmem⟩ := hrest j hj
        have hjk : j ≠ k := by rintro rfl; exact hn (by simp [ho, hheld])
        exact ⟨hheld, by simp [hjk, hmem]⟩
    · have hno : s.overBudget = false := by simpa using ho
      rw [shedDry_stops _ hno]
      exact .inl hno

theorem shedTail_shrinks (s : State) : s.PowerShrinks s.shedTail := by
  unfold shedTail
  split
  next => exact forceStop_shrinks s
  next => exact .of_table rfl rfl rfl id id fun _ => id

theorem shedDry_shrinks (l : List Bay) (s : State) : s.PowerShrinks (shedDry l s) := by
  induction l generalizing s with
  | nil => exact .of_table rfl rfl rfl id id fun _ => id
  | cons k rest ih =>
    unfold shedDry
    split
    next h =>
      have hk : s.arb.holdsDry k = true := by simp at h; exact h.2
      exact (revokeDry_shrinks hk).trans (ih _)
    next => exact ih s

theorem shedSteam_shrinks (s : State) : s.PowerShrinks s.shedSteam := by
  unfold shedSteam
  split
  next k hk =>
    split
    next => exact revokeSteam_shrinks hk
    next => exact .of_table rfl rfl rfl id id fun _ => id
  next => exact .of_table rfl rfl rfl id id fun _ => id

theorem slots_empty (h : ∀ j, s.arb.holdsDry j = false) : s.arb.slotA = none ∧ s.arb.slotB = none := by
  constructor
  · cases hA : s.arb.slotA with
    | none => rfl
    | some a => have ha := h a.bay; simp [Arbiter.holdsDry, Arbiter.slotHeldBy, hA] at ha
  · cases hB : s.arb.slotB with
    | none => rfl
    | some b => have hb := h b.bay; simp [Arbiter.holdsDry, Arbiter.slotHeldBy, hB] at hb

/-- Once all four stages have shed what there is, the base reserve is all that is drawn, and it fits any budget (R78, R84). -/
theorem shedStages_within (h : s.PowerBase) : s.shedStages.arb.committed ≤ s.arb.budget := by
  let heat := shedReheat overBudget s.arb.ring.reverse s
  have hheat : s.PowerShrinks heat := shedReheat_shrinks ..
  have htail : s.PowerShrinks heat.shedTail := hheat.trans (shedTail_shrinks heat)
  have hdry : s.PowerShrinks (shedDry s.arb.ring.reverse heat.shedTail) := htail.trans (shedDry_shrinks ..)
  have hsteam : s.PowerShrinks s.shedStages := hdry.trans (shedSteam_shrinks _)
  have hbase := h.shrinks hdry
  have hbudget : (shedDry s.arb.ring.reverse heat.shedTail).arb.budget = s.arb.budget := hdry.rules.1
  have hstop (ho : (shedDry s.arb.ring.reverse heat.shedTail).overBudget = false) : s.shedStages.arb.committed ≤ s.arb.budget := by
    have hle := (shedSteam_shrinks (shedDry s.arb.ring.reverse heat.shedTail)).committed_le hbase
    have hfit := not_overBudget_iff.mp ho
    rw [hbudget] at hfit
    exact hle.trans hfit
  by_cases ho : (shedDry s.arb.ring.reverse heat.shedTail).overBudget = true
  · obtain hno | ⟨htailStopped, hholders⟩ := shedDry_ends s.arb.ring.reverse heat.shedTail (shedTail_ends heat)
    · exact hstop hno
    · have hnone (j : Bay) : (shedDry s.arb.ring.reverse heat.shedTail).arb.holdsDry j = false := by
        have hn : ¬(shedDry s.arb.ring.reverse heat.shedTail).arb.holdsDry j = true := fun hj =>
          (hholders j hj).2 (List.mem_reverse.mpr (mem_ring h.ring j))
        simpa using hn
      obtain ⟨hA, hB⟩ := slots_empty hnone
      have hidle := htailStopped hA hB
      have hsteamless : s.shedStages.arb.steamRow = none ∧ s.shedStages.arb.slotA = none ∧ s.shedStages.arb.slotB = none ∧
          s.shedStages.arb.compressorCounted s.shedStages.dry.comp = false := by
        have hshed : s.shedStages = (shedDry s.arb.ring.reverse heat.shedTail).shedSteam := rfl
        rw [hshed]
        have hsh := shedSteam_shrinks (shedDry s.arb.ring.reverse heat.shedTail)
        refine ⟨?_, none_of_isSome hsh.slotA hA, none_of_isSome hsh.slotB hB, ?_⟩
        · unfold shedSteam
          split
          next k hk =>
            rw [if_pos ho]
            obtain ⟨req, harb, -⟩ := revokeBay_arb ((shedDry s.arb.ring.reverse heat.shedTail).endSteam k) k
            have harb' : ((shedDry s.arb.ring.reverse heat.shedTail).revokeSteam k).arb = _ := harb
            rw [harb']; rfl
          next hk => exact hk
        · by_contra hn
          have := hsh.counted hbase.waits (by simpa using hn)
          rw [hidle] at this; cases this
      obtain ⟨hr, ha, hb, hc⟩ := hsteamless
      rw [hsteam.draw h.draw, draw_idle hr ha hb hc, hsteam.rules.2]
      exact (inRange_base h.settings.1).trans h.range.1
  · exact hstop (by simpa using ho)

theorem shed_lawful (h : s.PowerBase) : s.shed.PowerLawful := by
  unfold shed
  split
  next =>
    have hstages : s.PowerShrinks s.shedStages :=
      (((shedReheat_shrinks ..).trans (shedTail_shrinks _)).trans (shedDry_shrinks ..)).trans (shedSteam_shrinks _)
    have hlawful : s.shedStages.PowerLawful :=
      powerLawful_iff.mpr ⟨h.shrinks hstages, by rw [hstages.rules.1]; exact shedStages_within h⟩
    exact hlawful.of_table rfl rfl rfl id id fun _ => id
  next hno => exact powerLawful_iff.mpr ⟨h, not_overBudget_iff.mp (by simpa using hno)⟩

theorem withBudget_base (h : s.PowerLawful) (watts : Nat) : (s.withBudget (clampBudget watts)).PowerBase :=
  have ⟨hbase, _⟩ := powerLawful_iff.mp h
  { ring := hbase.ring, claims := hbase.claims, settings := hbase.settings, before := hbase.before, waits := hbase.waits
    range := clampBudget_range watts, draw := hbase.draw }

theorem after_power (i : Instr) (s : State) (h : s.PowerLawful) : (s.after i).PowerLawful := by
  by_cases hi : ∃ p watts, i = .setBudget p watts
  · obtain ⟨p, watts, rfl⟩ := hi
    obtain m | ⟨hp, heq⟩ := setBudget_cases p watts s
    · exact m.keeps move_power h
    · rw [heq]
      have hlawful := PowerLawful.oweAndSettle (shed_lawful (withBudget_base h watts.toNat))
      exact (reply_moves _ (oweAndSettle_accepts (accepts_of_stable (shed_stable _) (withBudget_accepts _ hp)))).keeps
        move_power hlawful
  · exact (after_moves i s fun p w hw => hi ⟨p, w, hw⟩).keeps move_power h

end Sys2Proof.Machine.State

namespace Sys2Proof.Machine

/-- Settles O58: every move but a budget fall adds to the draw only what fits, and a budget fall sheds until the draw fits. -/
theorem everyStepKeepsTheDrawWithinTheBudget : Obligations.EveryStepKeepsTheDrawWithinTheBudget := fun _ _ hs h =>
  step_keeps (P := State.PowerLawful) (fun _ _ ⟨hr, hc, hs, hb, hw, hd⟩ => ⟨hr, hc, hs, hb, hw, hd⟩) State.after_power hs h

end Sys2Proof.Machine

/-!
PROOFS. No event leaves an evaluation owing: every row that brings a change of R62 settles it before it ends.
-/

namespace Sys2Proof.Machine.State

variable {s : State} {k : Bay}

/-- `NothingOwed` under a name that unification does not look through: the states of a walk stay folded. -/
def Settled (s : State) : Prop := s.NothingOwed

theorem settle_not_owed (s : State) : s.settle.Settled := by
  unfold settle Settled NothingOwed
  split
  next => exact evaluate_not_owed s
  next h => simpa using h

/-- Where the arbiter stands as it was, nothing new is owed. -/
theorem Settled.of_arb {t : State} (h : s.Settled) (ha : t.arb = s.arb) : t.Settled := by
  unfold Settled NothingOwed; rw [ha]; exact h

theorem Settled.reply (h : s.Settled) (p : Port) (st : Status) : (s.reply p st).Settled := h.of_arb (mapPort_arb ..)

theorem scanOneBay_not_owed (s : State) (k : Bay) : (s.scanOneBay k).Settled := settle_not_owed _

theorem finishScan_not_owed (code : Code) (s : State) : (s.finishScan code).Settled := by
  unfold finishScan deliverScan
  exact scanOneBay_not_owed _ 3

theorem tick_not_owed (lines : Option Lines) (s : State) : (s.tick lines).Settled := by
  unfold tick
  exact settle_not_owed _

/-! ## Timers and inputs -/

section

variable (h : s.Settled)

include h

theorem fillTimeout_not_owed : s.fillTimeout.Settled := by
  unfold fillTimeout; split
  next => exact settle_not_owed _
  next => exact h

theorem dryFire_not_owed : s.dryFire.Settled := by
  unfold dryFire; split
  next => exact settle_not_owed _
  next => exact h

theorem warmHoldExpiry_not_owed : s.warmHoldExpiry.Settled := by
  unfold warmHoldExpiry; split <;> exact h

theorem dwellElapsed_not_owed : s.dwellElapsed.Settled := by
  unfold dwellElapsed; split <;> exact h

theorem minOffExpiry_not_owed : s.minOffExpiry.Settled := by
  unfold minOffExpiry; split <;> exact h

theorem minRunExpiry_not_owed : s.minRunExpiry.Settled := by
  unfold minRunExpiry; split
  next => exact settle_not_owed _
  next => exact h

theorem damperTravelEnd_not_owed (k : Bay) : (s.damperTravelEnd k).Settled := by
  unfold damperTravelEnd; split
  next => exact h.of_arb (by simp)
  next => exact h

theorem findStall_not_owed (k : Bay) (found : AirBay → AirBay) : (s.findStall k found).Settled := by
  unfold findStall; dsimp only; split
  next => exact settle_not_owed _
  next => exact h

theorem silenceTimeout_not_owed (k : Bay) : (s.silenceTimeout k).Settled := by
  unfold silenceTimeout; split
  next => exact findStall_not_owed h k _
  next => exact h

theorem spinUpElapsed_not_owed (k : Bay) : (s.spinUpElapsed k).Settled := by
  unfold spinUpElapsed; split
  next => exact findStall_not_owed h k _
  next => exact h

theorem stepEndsOnLimit_not_owed (k : Bay) : (s.stepEndsOnLimit k).Settled := by
  unfold stepEndsOnLimit; split
  next => exact settle_not_owed _
  next => exact h

theorem waitTimeout_not_owed (k : Bay) : (s.waitTimeout k).Settled := by
  unfold waitTimeout; split
  next => exact settle_not_owed _
  next => exact h

theorem purgeEnd_not_owed (k : Bay) : (s.purgeEnd k).Settled := by
  unfold purgeEnd; split <;> exact h

theorem blockingByAge_not_owed (k : Bay) : (s.blockingByAge k).Settled := by
  unfold blockingByAge; split
  next =>
    split
    next =>
      dsimp only; split
      next => exact settle_not_owed _
      next => exact h
    next => exact h
  next => exact h

theorem drainProgressCheck_not_owed : s.drainProgressCheck.Settled := by
  unfold drainProgressCheck drainCheck; split
  next =>
    split
    next => exact h
    next => exact settle_not_owed _
  next => exact h

theorem doorOpening_not_owed (k : Bay) : (s.doorOpening k).Settled := by
  unfold doorOpening; split
  next => exact settle_not_owed _
  next => exact h

theorem doorClosing_not_owed (k : Bay) : (s.doorClosing k).Settled := by
  unfold doorClosing; split
  next => exact settle_not_owed _
  next => exact h

theorem doorSettled_not_owed (k : Bay) : (s.doorSettled k).Settled := by
  unfold doorSettled; split
  next =>
    split
    next => exact doorOpening_not_owed h k
    next => exact doorClosing_not_owed h k
  next => exact h

theorem lowProbeDry_not_owed : s.lowProbeDry.Settled := by unfold lowProbeDry; split <;> exact h

theorem lowProbeWet_not_owed : s.lowProbeWet.Settled := by unfold lowProbeWet; split <;> exact h

theorem highProbeWet_not_owed : s.highProbeWet.Settled := by unfold highProbeWet; split <;> exact h

theorem highProbeDry_not_owed : s.highProbeDry.Settled := by unfold highProbeDry; split <;> exact h

theorem lowSettled_not_owed : s.lowSettled.Settled := by
  unfold lowSettled; split
  next =>
    split
    next => exact lowProbeWet_not_owed h
    next => exact lowProbeDry_not_owed h
  next => exact h

theorem highSettled_not_owed : s.highSettled.Settled := by
  unfold highSettled; split
  next =>
    split
    next => exact highProbeWet_not_owed h
    next => exact highProbeDry_not_owed h
  next => exact h

theorem eachBay_not_owed {event : Bay → State → State} (hevent : ∀ {t : State}, t.Settled → ∀ k, (event k t).Settled) :
    (s.eachBay event).Settled :=
  hevent (hevent (hevent (hevent h 0) 1) 2) 3

theorem takeExpiries_not_owed : s.takeExpiries.Settled := by
  have hsteam := dwellElapsed_not_owed (warmHoldExpiry_not_owed (dryFire_not_owed (fillTimeout_not_owed h)))
  have hdampers := eachBay_not_owed (minRunExpiry_not_owed (minOffExpiry_not_owed hsteam)) damperTravelEnd_not_owed
  have hair := eachBay_not_owed (eachBay_not_owed hdampers silenceTimeout_not_owed) spinUpElapsed_not_owed
  have hends := eachBay_not_owed (eachBay_not_owed hair stepEndsOnLimit_not_owed) waitTimeout_not_owed
  have hbays := eachBay_not_owed (eachBay_not_owed hends purgeEnd_not_owed) blockingByAge_not_owed
  unfold takeExpiries
  exact highSettled_not_owed (lowSettled_not_owed (eachBay_not_owed (drainProgressCheck_not_owed hbays) doorSettled_not_owed))

theorem endConversion_not_owed (code : Code) : (s.endConversion code).Settled := by
  unfold endConversion; split
  next =>
    split
    next => exact finishScan_not_owed code s
    next => exact h
  next => exact h

theorem scanStart_not_owed : s.scanStart.Settled := by unfold scanStart; split <;> exact h

/-! ## Commands -/

theorem command_not_owed {p : Port} {c : Command} {params : List Byte} {act : State → State} (hact : (act s).Settled) :
    (s.command p c params act).Settled :=
  command_induction (P := Settled) h (fun st => h.reply p st) hact

theorem whenState_not_owed (allowed : BayState → Bool) (p : Port) (k : Bay) (act : State → State) :
    (s.whenState allowed p k act).Settled := by
  unfold whenState; split
  next => exact (settle_not_owed _).reply p _
  next => exact h.reply p _

theorem loadFromSlot_not_owed (p : Port) (slot : Byte) (water : Nat) (k : Bay) : (s.loadFromSlot p slot water k).Settled := by
  unfold loadFromSlot; split
  next =>
    split
    next => exact Settled.reply (s := s.loadBay k _ _ _) h p _
    next => exact h.reply p _
    next => exact h.reply p _
  next => exact h.reply p _

theorem loadInline_not_owed (p : Port) (water : Nat) (record : List Byte) (k : Bay) :
    (s.loadInline p water record k).Settled := by
  unfold loadInline; split
  next => exact whenState_not_owed h ..
  next => exact h.reply p _

theorem takeRecipe_not_owed (p : Port) (slot : Byte) :
    (match s.library.lookup slot with
      | .ok program => s.replyWith p program.bytes
      | .error status => s.reply p status).Settled := by
  split
  next => exact h.of_arb (by simp [replyWith])
  next => exact h.reply p _

theorem takeSettings_not_owed (p : Port) (record : List Byte) : (s.takeSettings p record).Settled := by
  unfold takeSettings; split
  next => exact h.reply p _
  next =>
    split
    next st _ => exact Settled.reply (s := s.applySettings st) h p _
    next => exact h.reply p _

theorem takeCommission_not_owed (p : Port) : (s.takeCommission p).Settled := by
  unfold takeCommission; split
  next => exact h.reply p _
  next => exact (settle_not_owed _).reply p _

theorem takeMode_not_owed (p : Port) (mode : Byte) : (s.takeMode p mode).Settled := by
  unfold takeMode; split
  next => exact (settle_not_owed _).reply p _
  next => exact h.reply p _

theorem takeOnBay_not_owed (p : Port) (b : Byte) (change : Bay → Arbiter → Arbiter) : (s.takeOnBay p b change).Settled := by
  unfold takeOnBay; split
  next => exact (settle_not_owed _).reply p _
  next => exact h.reply p _

theorem takeClearTrip_not_owed (p : Port) : (s.takeClearTrip p).Settled := by
  unfold takeClearTrip; split
  next => exact (settle_not_owed _).reply p _
  next => exact h.reply p _

theorem takeTrim_not_owed (p : Port) (channel trim : Byte) : (s.takeTrim p channel trim).Settled := by
  unfold takeTrim; split
  next n _ => exact Settled.reply (s := s.mapScan (Scanner.setTrim n trim)) h p _
  next => exact h.reply p _

theorem beginLibrary_not_owed (f : Library → Library) : (s.beginLibrary f).Settled := h

theorem completeLibrary_not_owed : s.completeLibrary.Settled := 
  h.of_arb (by simp [completeLibrary, reply])

theorem takeWrite_not_owed (p : Port) (slot : Byte) (record : List Byte) : (s.takeWrite p slot record).Settled := by
  unfold takeWrite; split
  next => exact beginLibrary_not_owed h _
  next => exact h.reply p _

theorem takeErase_not_owed (p : Port) (slot : Byte) : (s.takeErase p slot).Settled := by
  unfold takeErase; split
  next => exact beginLibrary_not_owed h _
  next => exact h.reply p _

theorem mapPort_not_owed (p : Port) (f : PortRec → PortRec) : (s.mapPort p f).Settled := h.of_arb (mapPort_arb ..)

end

theorem resetAll_not_owed (cause : ResetCause) (pins : Pins) (s : State) : (s.resetAll cause pins).Settled := rfl

theorem after_not_owed (i : Instr) (s : State) (h : s.Settled) : (s.after i).Settled := by
  cases i with
  | powerOnReset pins low => exact resetAll_not_owed ..
  | resetnReset pins => exact resetAll_not_owed ..
  | frameRefused p w =>
    change (if w = [] then _ else _ : State).Settled
    split
    next => exact mapPort_not_owed h p _
    next =>
      obtain he | ⟨st, he⟩ | he := takeFrame_cases w id s p
      · rw [he]; exact h
      · rw [he]; exact h.reply p st
      · rw [he]; exact h
  | loadRecipe o slot water => exact command_not_owed h (loadFromSlot_not_owed h ..)
  | loadProgram o water record => exact command_not_owed h (loadInline_not_owed h ..)
  | start o => exact command_not_owed h (whenState_not_owed h ..)
  | abort o => exact command_not_owed h (whenState_not_owed h ..)
  | skipStep o => exact command_not_owed h (whenState_not_owed h ..)
  | clear o => exact command_not_owed h (whenState_not_owed h ..)
  | readBay o => exact command_not_owed h (mapPort_not_owed h _ _)
  | readPlant p => exact command_not_owed h (mapPort_not_owed h _ _)
  | readRecipe p slot => exact command_not_owed h (takeRecipe_not_owed h p slot)
  | readNotices p => exact command_not_owed h (mapPort_not_owed h _ _)
  | setNoticeMask p mask => exact command_not_owed h ((mapPort_not_owed h p _).reply p _)
  | setPlant p record => exact command_not_owed h (takeSettings_not_owed h p record)
  | commission p => exact command_not_owed h (takeCommission_not_owed h p)
  | setBudget p w => exact command_not_owed h ((settle_not_owed _).reply p _)
  | setArbitration p mode => exact command_not_owed h (takeMode_not_owed h p mode)
  | promote p b => exact command_not_owed h (takeOnBay_not_owed h p b _)
  | mask p b => exact command_not_owed h (takeOnBay_not_owed h p b _)
  | unmask p b => exact command_not_owed h (takeOnBay_not_owed h p b _)
  | clearTrip p => exact command_not_owed h (takeClearTrip_not_owed h p)
  | writeRecipe p slot record => exact command_not_owed h (takeWrite_not_owed h p slot record)
  | eraseRecipe p slot => exact command_not_owed h (takeErase_not_owed h p slot)
  | eraseLibrary p => exact command_not_owed h (beginLibrary_not_owed h _)
  | setTrim p channel trim => exact command_not_owed h (takeTrim_not_owed h p channel trim)
  | readChannels p => exact command_not_owed h (mapPort_not_owed h _ _)
  | resetPart p pins => exact command_not_owed h ((resetAll_not_owed ..).reply ..)
  | libraryPhaseEnd =>
    change (if _ then _ else _ : State).Settled
    split
    next => exact completeLibrary_not_owed h
    next => exact h
  | libraryCompletion =>
    change (if _ then _ else _ : State).Settled
    split
    next => exact completeLibrary_not_owed h
    next => exact h
  | tick lines => exact tick_not_owed lines s
  | scanStart => exact scanStart_not_owed h
  | conversionEnd code => exact endConversion_not_owed h code
  | scanComplete code =>
    change (if _ then _ else _ : State).Settled
    split
    next => exact finishScan_not_owed code s
    next => exact h
  | waitTimeout k => exact waitTimeout_not_owed h k
  | stepEndsOnLimit k => exact stepEndsOnLimit_not_owed h k
  | blockingByAge k => exact blockingByAge_not_owed h k
  | doorOpening k => exact doorOpening_not_owed h k
  | doorClosing k => exact doorClosing_not_owed h k
  | purgeEnd k => exact purgeEnd_not_owed h k
  | lowProbeDry => exact lowProbeDry_not_owed h
  | lowProbeWet => exact lowProbeWet_not_owed h
  | highProbeWet => exact highProbeWet_not_owed h
  | highProbeDry => exact highProbeDry_not_owed h
  | fillTimeout => exact fillTimeout_not_owed h
  | dryFire => exact dryFire_not_owed h
  | dwellElapsed => exact dwellElapsed_not_owed h
  | warmHoldExpiry => exact warmHoldExpiry_not_owed h
  | minOffExpiry => exact minOffExpiry_not_owed h
  | minRunExpiry => exact minRunExpiry_not_owed h
  | damperTravelEnd k => exact damperTravelEnd_not_owed h k
  | tachometerEdge k capture => exact h
  | silenceTimeout k => exact silenceTimeout_not_owed h k
  | spinUpElapsed k => exact spinUpElapsed_not_owed h k
  | drainProgressCheck => exact drainProgressCheck_not_owed h
  | writeStart p a =>
    change (if _ then _ else _ : State).Settled
    split
    next => exact mapPort_not_owed (mapPort_not_owed h p _) p _
    next => exact mapPort_not_owed h p _
  | emptyWrite p => exact mapPort_not_owed h p _

end Sys2Proof.Machine.State

/-!
PROOFS. The plant laws taken together: the power laws, list and table with the bays, the plant lines and nothing owed.
-/

namespace Sys2Proof.Machine.State

variable {s t : State} {k : Bay}

/-- A bay waits in the list, or serves a step under one grant: never two of these. -/
theorem ListLawful.oneClaim (h : s.ListLawful) : s.OneClaim := fun k => by
  have hreq : (s.arb.requests.get k).isSome = true → ∀ q, s.holds k q = false := fun hr q => by
    obtain ⟨f, hf⟩ := Option.isSome_iff_exists.mp hr
    exact h.waiting_holds hf q
  have hone := h.holds_one k
  have hslots : ¬(Arbiter.slotHeldBy k s.arb.slotA = true ∧ Arbiter.slotHeldBy k s.arb.slotB = true) := fun ⟨hA, hB⟩ => by
    obtain ⟨a, ha, hak⟩ := Option.map_eq_some_iff.mp ((slotHeldBy_iff k _).mp hA)
    obtain ⟨b, hb, hbk⟩ := Option.map_eq_some_iff.mp ((slotHeldBy_iff k _).mp hB)
    exact h.distinct a ha b hb (hak.trans hbk.symm)
  cases hr : (s.arb.requests.get k).isSome with
  | true =>
    have hsteam : s.arb.holdsSteam k = false := hreq hr .steam
    have hdry : s.arb.holdsDry k = false := hreq hr .dry
    simp only [Arbiter.holdsDry, Bool.or_eq_false_iff] at hdry
    simp [hsteam, hdry]
  | false =>
    simp only [Arbiter.holdsDry] at hone
    revert hone hslots
    cases s.arb.holdsSteam k <;> cases Arbiter.slotHeldBy k s.arb.slotA <;> cases Arbiter.slotHeldBy k s.arb.slotB <;> simp

theorem plantLawful_iff : s.PlantLawful ↔ s.PowerLawful ∧ s.BaysLawful ∧ s.LinesLawful ∧ s.NothingOwed := by
  constructor
  · intro h
    have hbays : s.BaysLawful :=
      { requests := h.requests, holders := h.holders, programs := h.programs, doors := h.doors, library := h.library }
    have hcompressor := h.compressor
    rw [CompressorFollowsSlots, ← dryHolders_pos] at hcompressor
    refine ⟨?_, hbays, ?_, h.owed⟩
    · exact {
        ring := h.ring, claims := (baysLawful_iff.mp hbays).1.oneClaim, settings := h.settings, before := h.before
        waits := fun hw => h.compressor.mpr (.inr hw), budget := h.budget }
    · exact {
        grants := {
          compressor := ⟨hcompressor, h.speed⟩
          air := fun k => {
            damper := h.dampers k
            reheater := fun hr => (reheatReady_iff s k).mp (h.reheaters k hr)
            fan := (h.demands k).1, vent := (h.demands k).2, tacho := h.tachos k }
          halts := fun k =>
            have ⟨hpurge, hfault, hrun, hbound⟩ := h.halts k
            ⟨hpurge, hfault, hrun, hbound⟩
          bypass := h.bypass }
        steam := {
          holder := h.steam, heater := h.heater, valves := h.valves, warm := h.steamTimers.1, fill := h.steamTimers.2.1
          dryFire := h.steamTimers.2.2 }
        drain := ⟨h.drain.1, h.drain.2.1, h.drain.2.2.1, h.drain.2.2.2⟩
        full := h.full }
  · rintro ⟨hpower, hbays, hlines, howed⟩
    have hgrants := hlines.grants
    exact {
      ring := hpower.ring, owed := howed, bypass := hgrants.bypass, requests := hbays.requests, holders := hbays.holders
      settings := hpower.settings, budget := hpower.budget, before := hpower.before
      steam := hlines.steam.holder, heater := hlines.steam.heater, valves := hlines.steam.valves
      steamTimers := ⟨hlines.steam.warm, hlines.steam.fill, hlines.steam.dryFire⟩
      compressor := by rw [CompressorFollowsSlots, ← dryHolders_pos]; exact hgrants.compressor.held
      speed := hgrants.compressor.speed
      dampers := fun k => (hgrants.air k).damper
      reheaters := hgrants.reheatersSafe
      demands := fun k => ⟨(hgrants.air k).fan, (hgrants.air k).vent⟩
      tachos := fun k => (hgrants.air k).tacho
      full := hlines.full
      drain := ⟨hlines.drain.fault, hlines.drain.forces, hlines.drain.start, hlines.drain.run⟩
      programs := hbays.programs, doors := hbays.doors
      halts := fun k => ⟨(hgrants.halts k).purge, (hgrants.halts k).fault, (hgrants.halts k).run, (hgrants.halts k).bound⟩
      library := hbays.library }

/-! ## Every row keeps them -/

theorem move_busy_lines (m : Move s t) (h : s.BaysLawful ∧ s.LinesLawful) : t.BaysLawful ∧ t.LinesLawful := by
  obtain ⟨hbays, hlines⟩ := h
  obtain ⟨hlist, hlib⟩ := baysLawful_iff.mp hbays
  exact ⟨move_bays m hbays, move_lines m hlist hlib hlines⟩

theorem withBudget_lines (w : Nat) (h : s.LinesLawful) : (s.withBudget w).LinesLawful :=
  h.of_table rfl rfl rfl rfl rfl rfl (fun _ => rfl) fun _ => .refl _

theorem after_lines (i : Instr) (s : State) (hbays : s.BaysLawful) (h : s.LinesLawful) : (s.after i).LinesLawful := by
  obtain m | ⟨w, m⟩ := after_cases i s
  · exact (m.keeps move_busy_lines ⟨hbays, h⟩).2
  · exact (m.keeps move_busy_lines ⟨withBudget_bays w hbays, withBudget_lines w h⟩).2

theorem after_plant (i : Instr) (s : State) (h : s.PlantLawful) : (s.after i).PlantLawful := by
  obtain ⟨hpower, hbays, hlines, howed⟩ := plantLawful_iff.mp h
  exact plantLawful_iff.mpr ⟨after_power i s hpower, after_bays i s hbays, after_lines i s hbays hlines, after_not_owed i s howed⟩

/-- The plant laws speak of no port, no sensor and no queue. -/
theorem PlantLawful.of_plant (h : s.PlantLawful) (hlib : t.library = s.library) (hbays : t.bays = s.bays) (harb : t.arb = s.arb)
    (hsteam : t.steam = s.steam) (hdry : t.dry = s.dry) (hwater : t.water = s.water) : t.PlantLawful := by
  obtain ⟨hpower, hbayLaws, hlines, howed⟩ := plantLawful_iff.mp h
  obtain ⟨hlist, hlibrary⟩ := baysLawful_iff.mp hbayLaws
  have hbay (j : Bay) : t.bay j = s.bay j := by rw [bay, bay, hbays]
  have hreq (j : Bay) : EntryFollows (s.arb.requests.get j) (t.arb.requests.get j) := by rw [harb]; exact .refl _
  refine plantLawful_iff.mpr ⟨?_, ?_, ?_, by unfold NothingOwed; rw [harb]; exact howed⟩
  · exact hpower.of_table (by rw [harb]) (by rw [harb]) (by rw [hdry]) (by rw [harb]; exact id)
      (by unfold RingWhole; rw [harb]; exact id) fun k => by rw [harb]; exact id
  · exact baysLawful_iff.mpr ⟨hlist.of_table hbay hreq (by rw [harb]) (by rw [harb]) (by rw [harb]), .of_library hlib hlibrary⟩
  · exact hlines.of_table (by rw [harb]) (by rw [harb]) (by rw [harb]) hsteam hdry hwater hbay hreq

/-! ## After a reset -/

theorem resetAll_bays {cause : ResetCause} {pins : Pins} (h : s.LibrarySound) : (s.resetAll cause pins).BaysLawful :=
  baysLawful_iff.mpr ⟨resetAll_list .., resetAll_library h⟩

theorem resetAll_plant {cause : ResetCause} {pins : Pins} (h : s.LibrarySound) : (s.resetAll cause pins).PlantLawful :=
  plantLawful_iff.mpr ⟨resetAll_power .., resetAll_bays h, resetAll_lines .., rfl⟩

/-- The delivered part is a reset of itself. -/
theorem reset_eq_resetAll : State.reset = State.reset.resetAll .powerOn Config.firstPins := rfl

theorem reset_library : State.reset.LibrarySound := by
  have hempty (n : Fin 16) : State.reset.library.slots[n] = none := by simp [State.reset, State.afterReset]
  exact ⟨fun n p hp => (by rw [hempty] at hp; cases hp), fun p hp => (by cases hp), fun n _ => hempty n⟩

end Sys2Proof.Machine.State

namespace Sys2Proof.Machine

/-- Settles O57: the four parts of the plant laws hold after a reset, and every row keeps each. -/
theorem thePlantLawsHoldAtResetAndEveryStepKeepsThem : Obligations.ThePlantLawsHoldAtResetAndEveryStepKeepsThem := by
  unfold Obligations.ThePlantLawsHoldAtResetAndEveryStepKeepsThem
  refine ⟨?_, fun s t hs h => step_keeps (P := State.PlantLawful) (fun _ _ h => h.of_plant rfl rfl rfl rfl rfl rfl) State.after_plant hs h⟩
  rw [State.reset_eq_resetAll]
  exact ⟨State.resetAll_plant State.reset_library, State.resetAll_power .., State.resetAll_bays State.reset_library,
    State.resetAll_estimates _ _ _, State.resetAll_scanner _ _ _, State.resetAll_ports _ _ _⟩

end Sys2Proof.Machine

/-!
PROOFS. The step and the resets: the statements on what a step takes and on what a reset leaves.
-/

namespace Sys2Proof.Machine

namespace State

variable {s : State} {pins : Pins}

/-- RESET_PART on the service port: the part reset, with the OK of the reset in that port's buffer (R179). -/
theorem exec_resetPart (pins : Pins) (h : s.Accepts .service) :
    exec (.resetPart .service pins) s =
      .next ((s.resetAll .command { pins with serviceRead := false }).reply .service .ok) :=
  congrArg Host.Outcome.next (command_of_passes _ h (Command.passes_service (by decide) rfl rfl (by decide)))

theorem resetPart_on_bay (k : Bay) (pins : Pins) (h : s.Accepts (.bay k)) :
    exec (.resetPart (.bay k) pins) s = .next (s.reply (.bay k) .notPermitted) :=
  congrArg Host.Outcome.next (command_of_bay_port _ h rfl (by decide))

/-- Every reset row completes in `resetAll`; what it leaves at a port is, the reply of RESET_PART apart, the port's reset value. -/
theorem exec_reset_ports {i : Instr} (h : s.ResetWith i pins) :
    ∃ (cause : ResetCause) (reading : Bool) (ports : Ports),
      exec i s = .next { s.resetAll cause { pins with serviceRead := reading } with ports := ports } ∧
      ports.bay = pins.bayRead.map PortRec.afterReset ∧ ports.service.phase ≠ .pending ∧
      ports.service.notices = NoticeSet.empty ∧ ports.service.mask = BitVec.allOnes 10 := by
  obtain ⟨low, rfl⟩ | rfl | ⟨rfl, haccepts⟩ := h
  case inl => exact ⟨if low then .pin else .powerOn, pins.serviceRead, Ports.afterReset pins, rfl, rfl, nofun, rfl, rfl⟩
  case inr.inl => exact ⟨.pin, pins.serviceRead, Ports.afterReset pins, rfl, rfl, nofun, rfl, rfl⟩
  case inr.inr => exact ⟨.command, false, _, exec_resetPart pins haccepts, rfl, nofun, rfl, rfl⟩

theorem resetAll_channel (cause : ResetCause) (pins : Pins) (s : State) (n : ChannelNo) :
    (s.resetAll cause pins).chan n = Channel.afterReset := by
  simp [chan, resetAll, afterReset, Scanner.afterReset]

end State

/-- Settles O1: `step` matches on the queue alone. -/
theorem stepTakesTheFrontCommand : Obligations.StepTakesTheFrontCommand := fun c s =>
  ⟨rfl, fun h => by rw [step, h]⟩

/-- Settles O3: each reset row is `resetAll`, RESET_PART the one that the port checks first, and a port after a reset takes no byte. -/
theorem eachResetLeavesTheResetStateAndItsCause : Obligations.EachResetLeavesTheResetStateAndItsCause := by
  unfold Obligations.EachResetLeavesTheResetStateAndItsCause
  refine fun pins s => ⟨rfl, rfl, rfl, fun h => ?part, fun k h => State.resetPart_on_bay k pins h, fun reading => ?port,
    fun _ _ => rfl⟩
  case part =>
    rw [State.exec_resetPart pins h]
    rfl
  case port => exact ⟨rfl, rfl, rfl, fun _ => rfl⟩

/-- Settles O5: the blocks of `resetAll` are their chapters' reset values, and the laws hold of it. -/
theorem aResetLeavesTheBlocksAtTheirResetValues : Obligations.AResetLeavesTheBlocksAtTheirResetValues := by
  unfold Obligations.AResetLeavesTheBlocksAtTheirResetValues
  intro i pins s hreset
  obtain ⟨cause, reading, ports, hexec, hbays, hphase, hnotices, hmask⟩ := State.exec_reset_ports hreset
  refine ⟨_, hexec, fun k => ?bay, rfl, rfl, rfl, rfl, rfl, rfl, rfl, fun k => PerBay.get_fill .., rfl, rfl, rfl, rfl, rfl, rfl, rfl,
    ?fill, rfl, rfl, rfl, rfl, rfl, rfl, fun n => ?channel, rfl, fun k => ?port, hnotices, hmask, rfl, fun _ => rfl, fun hlib => ?laws,
    State.resetAll_estimates cause pins s, State.resetAll_scanner cause pins s, ?pending⟩
  case bay =>
    have hbay := State.resetAll_bay cause { pins with serviceRead := reading } s k
    have hdoor : (pins.lines.doorHigh.map fun h => ({ level := h, run := 0 } : Debounce)).get k =
        { level := pins.lines.doorHigh.get k, run := 0 } := PerBay.get_map ..
    have hest : (PerBay.fill Estimator.afterReset).get k = Estimator.afterReset := PerBay.get_fill ..
    have hair : (PerBay.fill AirBay.afterReset).get k = AirBay.afterReset := PerBay.get_fill ..
    refine ⟨congrArg BayContext.state hbay, congrArg BayContext.program hbay, congrArg BayContext.source hbay,
      congrArg BayContext.stepIndex hbay, congrArg BayContext.stepRemaining hbay, congrArg BayContext.waitElapsed hbay, rfl,
      congrArg BayContext.outcome hbay, congrArg BayContext.fault hbay, congrArg BayContext.underdry hbay,
      congrArg BayContext.overheatRun hbay, congrArg BayContext.purgeRemaining hbay, congrArg BayContext.door hbay, hdoor, hest, hair⟩
  case fill =>
    change (if pins.lines.lowWet then none else some 0) = if (if pins.lines.lowWet then Probe.wet else .dry) = .dry then some 0 else none
    cases pins.lines.lowWet <;> rfl
  case channel =>
    have hchannel := State.resetAll_channel cause { pins with serviceRead := reading } s n
    exact ⟨congrArg Channel.trim hchannel, congrArg Channel.raw hchannel, congrArg Channel.value hchannel,
      congrArg Channel.faulted hchannel, congrArg Channel.run hchannel, congrArg Channel.latched hchannel,
      congrArg Channel.inFlight hchannel⟩
  case port =>
    change ports.bay.get k = _
    rw [hbays]
    exact PerBay.get_map ..
  case laws =>
    have hplant := (State.resetAll_plant (cause := cause) (pins := { pins with serviceRead := reading }) hlib).of_plant
      (t := { s.resetAll cause { pins with serviceRead := reading } with ports := ports }) rfl rfl rfl rfl rfl rfl
    obtain ⟨hpower, hbayLaws, -⟩ := State.plantLawful_iff.mp hplant
    exact ⟨hplant, hpower, hbayLaws⟩
  case pending =>
    refine ⟨iff_of_false hphase (by simp [State.resetAll, State.afterReset]), fun k => ?_⟩
    change (ports.bay.get k).phase ≠ .pending
    rw [hbays, PerBay.get_map]
    nofun

end Sys2Proof.Machine

/-!
PROOFS. The ports (R170 to R174, R176): the checks of a frame in their order, what a write does to its port, and who may command what.
-/

namespace Sys2Proof.Machine

/-! ## The command table (R176) -/

/-- Code and command, row by row. -/
theorem command_rows : (Command.all.map fun c => (c.code.toNat, c)) =
    [(0x10, Command.loadRecipe), (0x11, .loadProgram), (0x12, .start), (0x13, .abort), (0x14, .skipStep), (0x15, .clear),
     (0x16, .readBay), (0x20, .readPlant), (0x21, .readRecipe), (0x22, .readNotices), (0x23, .setNoticeMask),
     (0x30, .setPlant), (0x31, .commission), (0x32, .setBudget), (0x33, .setArbitration), (0x34, .promote),
     (0x35, .mask), (0x36, .unmask), (0x37, .clearTrip), (0x40, .writeRecipe), (0x41, .eraseRecipe),
     (0x42, .eraseLibrary), (0x50, .setTrim), (0x51, .readChannels), (0x5F, .resetPart)] := rfl

theorem mem_all (c : Command) : c ∈ Command.all := by cases c <;> decide

theorem ofCode_iff_row (b : Byte) (c : Command) : Command.ofCode b = some c ↔ (b.toNat, c) ∈ Command.all.map fun c => (c.code.toNat, c) := by
  rw [ofCode_iff, List.mem_map]
  constructor
  · rintro rfl
    exact ⟨c, mem_all c, rfl⟩
  · rintro ⟨d, -, hd⟩
    obtain ⟨hcode, rfl⟩ := Prod.mk.inj hd
    exact BitVec.eq_of_toNat_eq hcode.symm

theorem mem_permitted_bay (c : Command) (k : Bay) : c.permitted (.bay k) = true ↔ c ∈ Command.all.filter fun c => c.permitted (.bay k) := by
  simp [mem_all]

theorem bayBytes_eq (p : Port) (c : Command) : c.bayBytes p =
    if p = .service ∧ c ∈ [.loadRecipe, .loadProgram, .start, .abort, .skipStep, .clear, .readBay] then 1 else 0 := by
  cases p with
  | bay k => simp [Command.bayBytes]
  | service => cases c <;> rfl

theorem lengthSuits_exactly {c : Command} {n : Nat} (h : c.operandLength = .exactly n) (p : Port) (l : Nat) :
    c.lengthSuits p l = true ↔ l = c.bayBytes p + n := by
  simp only [Command.lengthSuits, h, Command.Length.suits, Bool.and_eq_true, decide_eq_true_eq]
  omega

theorem lengthSuits_atLeast {c : Command} {n : Nat} (h : c.operandLength = .atLeast n) (p : Port) (l : Nat) :
    c.lengthSuits p l = true ↔ c.bayBytes p + n ≤ l := by
  simp only [Command.lengthSuits, h, Command.Length.suits, Bool.and_eq_true, decide_eq_true_eq]
  omega

/-! ## The checks of a frame (R172) -/

theorem refuseFrame_short {p : Port} {rx : List Byte} {overrun : Bool} (h : overrun = true ∨ rx.length < 2) :
    refuseFrame p rx overrun = some .badLength := by
  match rx with
  | [] | [_] => rfl
  | code :: len :: params =>
    have ho : overrun = true := h.resolve_right (by simp)
    simp [refuseFrame, ho]

section

variable (p : Port) (code len : Byte) (params : List Byte)

theorem refuseFrame_length (h : 108 < len.toNat ∨ params.length ≠ len.toNat) :
    refuseFrame p (code :: len :: params) false = some .badLength := by
  have hbad : (false || decide (Params.maxL < len.toNat) || decide (params.length ≠ len.toNat)) = true := by
    simpa [Params.maxL] using h
  simp only [refuseFrame, hbad, if_true]

variable {p code len params} (hshort : len.toNat ≤ 108) (hlen : params.length = len.toNat)

include hshort hlen

/-- The checks after that of the length. -/
theorem refuseFrame_fits : refuseFrame p (code :: len :: params) false = match Command.ofCode code with
    | none => some .unknownCommand
    | some c =>
      if c.permitted p = false then some .notPermitted
      else if c.lengthSuits p len.toNat = false then some .badLength
      else if c.bayBytes p = 1 ∧ 3 < (params.getD 0 0).toNat then some .badValue
      else if c = .loadProgram ∧ parseProgram (params.drop (c.bayBytes p + 2)) = none then some .badValue
      else none := by
  have hgood : (false || decide (Params.maxL < len.toNat) || decide (params.length ≠ len.toNat)) = false := by
    simpa [Params.maxL] using ⟨hshort, hlen⟩
  simp only [refuseFrame, hgood, Bool.false_eq_true, if_false, Bool.not_eq_true', Option.isNone_iff_eq_none] <;> rfl

theorem refuseFrame_unknown (h : Command.ofCode code = none) : refuseFrame p (code :: len :: params) false = some .unknownCommand := by
  rw [refuseFrame_fits hshort hlen, h]

variable {c : Command} (hc : Command.ofCode code = some c)

include hc

theorem refuseFrame_forbidden (h : c.permitted p = false) : refuseFrame p (code :: len :: params) false = some .notPermitted := by
  rw [refuseFrame_fits hshort hlen, hc]
  exact if_pos h

variable (hpermitted : c.permitted p = true)

include hpermitted

theorem refuseFrame_unsuited (h : c.lengthSuits p len.toNat = false) :
    refuseFrame p (code :: len :: params) false = some .badLength := by
  rw [refuseFrame_fits hshort hlen, hc]
  simp [hpermitted, h]

variable (hsuits : c.lengthSuits p len.toNat = true)

include hsuits

theorem refuseFrame_bay (hb : c.bayBytes p = 1) (h : 3 < (params.getD 0 0).toNat) :
    refuseFrame p (code :: len :: params) false = some .badValue := by
  rw [refuseFrame_fits hshort hlen, hc]
  simp only [hpermitted, hsuits, Bool.true_eq_false, if_false, hb, h, and_self, if_true]

theorem refuseFrame_record (h : c.bayBytes p = 1 → (params.getD 0 0).toNat ≤ 3) :
    refuseFrame p (code :: len :: params) false =
      if c = .loadProgram ∧ parseProgram (params.drop (c.bayBytes p + 2)) = none then some .badValue else none := by
  have hbay : ¬(c.bayBytes p = 1 ∧ 3 < (params.getD 0 0).toNat) := fun ⟨hb, hn⟩ => absurd (h hb) (Nat.not_le.mpr hn)
  rw [refuseFrame_fits hshort hlen, hc]
  simp only [hpermitted, hsuits, Bool.true_eq_false, if_false, if_neg hbay]

end

/-- Settles O6: the command table read off `Command.all`, and each check where those before it pass. -/
theorem aFrameIsCheckedInTheOrderOfTheRule : Obligations.AFrameIsCheckedInTheOrderOfTheRule := by
  unfold Obligations.AFrameIsCheckedInTheOrderOfTheRule
  intro p rx overrun
  refine ⟨fun b c => ?_, fun c => ⟨rfl, fun k => ?_⟩, fun c => bayBytes_eq p c, fun c n l hn => ?_,
    fun l => ⟨lengthSuits_atLeast rfl p l, ?_⟩, refuseFrame_short, ?_⟩
  · rw [ofCode_iff_row, command_rows]
  · rw [mem_permitted_bay, permitted_bay]
    simp only [List.mem_cons, List.not_mem_nil, or_false]
    tauto
  · refine lengthSuits_exactly ?_ p l
    have hrows : ∀ r ∈ [(Command.loadRecipe, 3), (.start, 0), (.abort, 0), (.skipStep, 0), (.clear, 0), (.readBay, 0), (.readPlant, 0),
        (.readRecipe, 1), (.readNotices, 0), (.setNoticeMask, 2), (.setPlant, 40), (.commission, 0), (.setBudget, 2),
        (.setArbitration, 1), (.promote, 1), (.mask, 1), (.unmask, 1), (.clearTrip, 0), (.eraseRecipe, 1),
        (.eraseLibrary, 0), (.setTrim, 2), (.readChannels, 0), (.resetPart, 0)], Command.operandLength r.1 = .exactly r.2 := by decide
    exact hrows (c, n) hn
  · have hbytes : Command.writeRecipe.bayBytes p = 0 := by cases p <;> rfl
    rw [lengthSuits_atLeast rfl, hbytes, Nat.zero_add]
  · rintro code len params rfl rfl
    refine ⟨refuseFrame_length p code len params, fun hshort hlen => ⟨refuseFrame_unknown hshort hlen, fun c hc =>
      ⟨refuseFrame_forbidden hshort hlen hc, fun hpermitted => ⟨refuseFrame_unsuited hshort hlen hc hpermitted, fun hsuits =>
        ⟨refuseFrame_bay hshort hlen hc hpermitted hsuits, fun hbay => ⟨?_, fun hgood => ?_⟩⟩⟩⟩⟩⟩
    · rintro rfl hrecord
      rw [refuseFrame_record hshort hlen hc hpermitted hsuits hbay, if_pos ⟨rfl, hrecord⟩]
    · rw [refuseFrame_record hshort hlen hc hpermitted hsuits hbay, if_neg fun ⟨hload, hrecord⟩ => hgood hload hrecord]

/-! ## Writes on a port (R170, R171, R174) -/

namespace State

variable {s : State} {p : Port}

theorem mapPort_self {f : PortRec → PortRec} (h : f (s.port p) = s.port p) : s.mapPort p f = s := by
  have hid : s.mapPort p id = s := by
    cases p with
    | bay k => simp only [mapPort]; rw [show s.ports.bay.modify k id = s.ports.bay from PerBay.modify_id ..]
    | service => rfl
  rw [mapPort_congr s (g := id) h, hid]

theorem endEmpty_idle (h : (s.port p).phase = .idle ∨ (s.port p).phase = .replyReady ∨ (s.port p).phase = .pending) :
    s.mapPort p PortRec.endEmpty = s :=
  mapPort_self (by obtain h | h | h := h <;> simp [PortRec.endEmpty, h])

theorem endEmpty_receiving {b : Bool} (h : (s.port p).phase = .receiving b) : s.mapPort p PortRec.endEmpty =
    s.mapPort p fun r => { r with phase := if b then .replyReady else .idle, rx := [], overrun := false } :=
  mapPort_congr s (by simp [PortRec.endEmpty, h])

/-- A refused frame is answered with the status of the check that failed. -/
theorem exec_frameRefused {written : List Byte} {st : Status} (ha : s.Accepts p) (hw : written ≠ [])
    (h : refuseFrame p (written.take 112) (decide (112 < written.length)) = some st) :
    exec (.frameRefused p written) s = .next (s.reply p st) := by
  change Host.Outcome.next (if written = [] then _ else s.takeFrame p written id) = _
  rw [if_neg hw, takeFrame_eq, if_neg ha]
  exact congrArg _ (by simp only [Params.rxBytes, h])

/-- No row that is a write does anything on a PENDING port. -/
theorem exec_on_pending_port {i : Instr} (hi : i.port? = some p) (h : (s.port p).phase = .pending) : exec i s = .next s := by
  have hcommand (c : Command) (params : List Byte) (act : State → State) : s.command p c params act = s := command_of_pending act h
  have hend : s.mapPort p PortRec.endEmpty = s := endEmpty_idle (.inr (.inr h))
  cases i <;> cases hi
  case frameRefused written =>
    change Host.Outcome.next (if written = [] then _ else s.takeFrame p written id) = _
    rw [hend, takeFrame_eq, if_pos h, ite_self]
  case writeStart a =>
    change Host.Outcome.next (if s.acknowledgesWrite p a then (s.mapPort p PortRec.endEmpty).mapPort p PortRec.startWrite
      else s.mapPort p PortRec.endEmpty) = _
    rw [if_neg (by simp [acknowledgesWrite, h]), hend]
  case emptyWrite => exact congrArg _ hend
  all_goals exact congrArg _ (hcommand ..)

end State

/-- Settles O7: the answer to a refused frame, and the port update that each reply is. -/
theorem aRefusedFrameChangesNothingButItsReply : Obligations.ARefusedFrameChangesNothingButItsReply := by
  unfold Obligations.ARefusedFrameChangesNothingButItsReply
  refine ⟨fun p written s ha h => ?_, fun p st data s => ⟨rfl, rfl⟩, fun p q f s => ⟨State.mapPort_port s p f q, State.mapPort_others s p f⟩⟩
  simp only [refusedFrame, Bool.and_eq_true, decide_eq_true_eq] at h
  obtain ⟨hw, hsome⟩ := h
  obtain ⟨st, hst⟩ := Option.isSome_iff_exists.mp hsome
  exact ⟨st, hst, State.exec_frameRefused ha hw hst⟩

/-- Settles O8. -/
theorem aPendingPortTakesNothing : Obligations.APendingPortTakesNothing := fun _ _ _ hi h => State.exec_on_pending_port hi h

end Sys2Proof.Machine

/-!
PROOFS. The ports: a write's start and its bytes (R170, R171), and the service commands on a bay port (R176).
-/

namespace Sys2Proof.Machine

/-! ## The bytes of a write (R171) -/

namespace PortRec

variable {r : PortRec}

theorem takesBytes_iff : r.takesBytes = true ↔ ∃ c, r.phase = .receiving c := by
  unfold takesBytes
  cases r.phase <;> simp

theorem acknowledgesByte_iff : r.acknowledgesByte = true ↔ (∃ c, r.phase = .receiving c) ∧ r.rx.length < 112 := by
  simp only [acknowledgesByte, Bool.and_eq_true, takesBytes_iff, decide_eq_true_eq, Params.rxBytes]

theorem storeByte_receiving (b : Byte) (h : ∃ c, r.phase = .receiving c) :
    r.storeByte b = if r.rx.length < 112 then { r with rx := r.rx ++ [b] } else { r with overrun := true } := by
  have htakes := takesBytes_iff.mpr h
  by_cases hroom : r.rx.length < 112
  · rw [storeByte, if_pos (acknowledgesByte_iff.mpr ⟨h, hroom⟩), if_pos hroom]
  · rw [storeByte, if_neg fun hack => hroom (acknowledgesByte_iff.mp hack).2, if_pos htakes, if_neg hroom]

theorem storeByte_not_receiving (b : Byte) (h : ∀ c, r.phase ≠ .receiving c) : r.storeByte b = r := by
  have htakes : ¬r.takesBytes = true := fun ht => let ⟨c, hc⟩ := takesBytes_iff.mp ht; h c hc
  rw [storeByte, if_neg fun hack => let ⟨⟨c, hc⟩, _⟩ := acknowledgesByte_iff.mp hack; h c hc, if_neg htakes]

/-- A START keeps the state that an empty write returns to (R171). -/
theorem startWrite_phase (h : r.phase ≠ .pending) :
    r.startWrite.phase = .receiving (decide (r.phase = .replyReady ∨ r.phase = .receiving true)) := by
  unfold startWrite
  cases hp : r.phase with
  | receiving b => cases b <;> simp [hp]
  | pending => exact absurd hp h
  | idle => simp
  | replyReady => simp

end PortRec

/-! ## WRITE_START (R170, R171) -/

namespace State

variable {s : State} {p : Port}

theorem exec_writeStart_other {a : BitVec 7} (h : a ≠ s.targetAddress) :
    exec (.writeStart p a) s = .next (s.mapPort p PortRec.endEmpty) := by
  change Host.Outcome.next (if s.acknowledgesWrite p a then _ else _) = _
  rw [if_neg (by simp [acknowledgesWrite, h])]

theorem exec_writeStart_own {a : BitVec 7} (ha : s.Accepts p) (h : a = s.targetAddress) :
    exec (.writeStart p a) s = .next ((s.mapPort p PortRec.endEmpty).mapPort p PortRec.startWrite) := by
  change Host.Outcome.next (if s.acknowledgesWrite p a then _ else _) = _
  rw [if_pos (by simp [acknowledgesWrite, h, ha])]

/-- A START after whatever the port was doing: RECEIVING, and the state before the write is kept through a repeated one. -/
theorem start_after_end (ha : s.Accepts p) : ∃ b, (s.mapPort p PortRec.endEmpty).mapPort p PortRec.startWrite =
      s.mapPort p (fun r => { r with phase := .receiving b, rx := [], overrun := false }) ∧
      ((s.port p).phase = .idle → b = false) ∧ ((s.port p).phase = .replyReady → b = true) ∧
      ∀ c, (s.port p).phase = .receiving c → b = c := by
  rw [mapPort_mapPort]
  cases hp : (s.port p).phase with
  | pending => exact absurd hp ha
  | idle => exact ⟨false, mapPort_congr s (by simp [PortRec.startWrite, PortRec.endEmpty, hp]), by simp⟩
  | replyReady => exact ⟨true, mapPort_congr s (by simp [PortRec.startWrite, PortRec.endEmpty, hp]), by simp⟩
  | receiving c =>
    refine ⟨c, mapPort_congr s ?_, by simp⟩
    cases c <;> simp [PortRec.startWrite, PortRec.endEmpty, hp]

end State

/-- Settles O9: WRITE_START ends a write without bytes before it begins one, and a write stores its bytes one by one. -/
theorem aWriteStartAndAnEmptyWriteMoveThePort : Obligations.AWriteStartAndAnEmptyWriteMoveThePort := by
  unfold Obligations.AWriteStartAndAnEmptyWriteMoveThePort
  refine ⟨fun p a s ha => ⟨fun hother => ⟨fun hrest => ?_, fun b hb => ?_⟩, fun hown => ?_⟩,
    fun p b s hb => congrArg _ (State.endEmpty_receiving hb),
    fun r b written => ⟨PortRec.acknowledgesByte_iff, PortRec.storeByte_receiving b, PortRec.storeByte_not_receiving b, rfl, fun h => ?_⟩⟩
  · rw [State.exec_writeStart_other hother, State.endEmpty_idle (hrest.imp_right .inl)]
  · rw [State.exec_writeStart_other hother, State.endEmpty_receiving hb]
  · obtain ⟨b, heq, hkept⟩ := State.start_after_end ha
    exact ⟨b, by rw [State.exec_writeStart_own ha hown, heq], hkept⟩
  · rw [receive_eq written h, PortRec.startWrite_phase h]

/-- Settles O10: permission is the check after the length of the frame, before the parameters are looked at. -/
theorem aBayPortRefusesEveryServiceCommand : Obligations.ABayPortRefusesEveryServiceCommand := by
  unfold Obligations.ABayPortRefusesEveryServiceCommand
  intro k i s ha hi
  have hrefuse (c : Command) (params : List Byte) (act : State → State) (hg : c.group = .service) (hs : params.length ≤ 108) :
      Host.Outcome.next (s.command (.bay k) c params act) = (.next (s.reply (.bay k) .notPermitted) : Host.Outcome State Fault Refusal) :=
    congrArg _ (State.command_of_bay_port act ha hg hs)
  obtain hbare | ⟨w, rfl⟩ | ⟨b, hbyte⟩ | ⟨b, c, rfl⟩ | ⟨pins, rfl⟩ | ⟨record, hlen, rfl⟩ | ⟨slot, record, hlen, rfl⟩ := hi
  · simp only [List.mem_cons, List.not_mem_nil, or_false] at hbare
    obtain rfl | rfl | rfl | rfl := hbare
    all_goals exact hrefuse _ _ _ rfl (by decide)
  · exact hrefuse .setBudget _ _ rfl (by simp [wordBytes, be16])
  · simp only [List.mem_cons, List.not_mem_nil, or_false] at hbyte
    obtain rfl | rfl | rfl | rfl | rfl := hbyte
    all_goals exact hrefuse _ _ _ rfl (by simp)
  · exact hrefuse .setTrim _ _ rfl (by simp)
  · exact State.resetPart_on_bay k pins ha
  · exact hrefuse .setPlant _ _ rfl (by omega)
  · exact hrefuse .writeRecipe _ _ rfl (by simp; omega)

end Sys2Proof.Machine

/-!
PROOFS. Records on the wire (R1, R168, R178): fields of one and two bytes, signed ones, and the program and settings records.
-/

namespace Sys2Proof.Machine

/-! ## Fields -/

theorem byteOf_toNat_mod (n : Nat) : (byteOf n).toNat = n % 256 := by simp [byteOf]

theorem byteOf_toNat_lt {n : Nat} (h : n < 256) : (byteOf n).toNat = n := by rw [byteOf_toNat_mod, Nat.mod_eq_of_lt h]

theorem byteOf_of_toNat (b : Byte) : byteOf b.toNat = b := BitVec.eq_of_toNat_eq (byteOf_toNat_lt b.isLt)

theorem nat16_byteOf (n : Nat) : nat16 (byteOf (n / 256)) (byteOf n) = n % 65536 := by
  simp only [nat16, byteOf_toNat_mod]
  omega

theorem nat16_byteOf_lt {n : Nat} (h : n < 65536) : nat16 (byteOf (n / 256)) (byteOf n) = n := by
  rw [nat16_byteOf, Nat.mod_eq_of_lt h]

theorem nat16_lt (hi lo : Byte) : nat16 hi lo < 65536 := by
  have := hi.isLt; have := lo.isLt
  simp only [nat16]; omega

theorem be16_nat16 (hi lo : Byte) : be16 (nat16 hi lo) = [hi, lo] := by
  have hlo := lo.isLt
  have hhigh : nat16 hi lo / 256 = hi.toNat := by simp only [nat16]; omega
  have hlow : byteOf (nat16 hi lo) = lo := BitVec.eq_of_toNat_eq (by rw [byteOf_toNat_mod]; simp only [nat16]; omega)
  rw [be16, hhigh, hlow, byteOf_of_toNat]

theorem be16_fieldAt (l : List Byte) (i : Nat) : be16 (fieldAt l i) = [l.getD i 0, l.getD (i + 1) 0] := be16_nat16 ..

theorem ofInt_toNat (i : Int) : ((BitVec.ofInt 16 i).toNat : Int) = i % 65536 := by
  rw [BitVec.toNat_ofInt]; omega

/-- A signed field is read back modulo 65536 as an unsigned one. -/
theorem nat16_be16Int (i : Int) : (nat16 (byteOf ((BitVec.ofInt 16 i).toNat / 256)) (byteOf (BitVec.ofInt 16 i).toNat) : Int) = i % 65536 := by
  rw [nat16_byteOf_lt (BitVec.isLt _), ofInt_toNat]

theorem int16_be16Int {i : Int} (hlo : -32768 ≤ i) (hhi : i < 32768) :
    int16 (byteOf ((BitVec.ofInt 16 i).toNat / 256)) (byteOf (BitVec.ofInt 16 i).toNat) = i := by
  have hbytes : (byteOf ((BitVec.ofInt 16 i).toNat / 256) ++ byteOf (BitVec.ofInt 16 i).toNat : BitVec 16) = BitVec.ofInt 16 i :=
    BitVec.eq_of_toNat_eq (by rw [toNat_append_eq_nat16, nat16_byteOf_lt (BitVec.isLt _)])
  rw [int16, hbytes, BitVec.toInt_ofInt_eq_self (by decide) hlo hhi]

theorem be16Int_int16 (hi lo : Byte) : be16Int (int16 hi lo) = [hi, lo] := by
  rw [be16Int, int16, BitVec.ofInt_toInt, toNat_append_eq_nat16, be16_nat16]

theorem be16Int_nat16 (hi lo : Byte) : be16Int (nat16 hi lo) = [hi, lo] := by
  have hlt := nat16_lt hi lo
  have hnat : (BitVec.ofInt 16 (nat16 hi lo)).toNat = nat16 hi lo := by
    have := ofInt_toNat (nat16 hi lo); omega
  rw [be16Int, hnat, be16_nat16]

/-! ## The steps of a program (R1) -/

theorem StepKind.ofCode_code (k : StepKind) : StepKind.ofCode k.code = some k := by cases k <;> rfl

theorem StepKind.code_of_ofCode {b : Byte} {k : StepKind} (h : StepKind.ofCode b = some k) : k.code = b := by
  unfold StepKind.ofCode at h
  repeat' split at h
  all_goals cases h
  all_goals rename_i hb; exact hb.symm

/-- The values a step's fields can carry. -/
def StepRecord.Fits (r : StepRecord) : Prop :=
  r.fanLevel < 256 ∧ r.duration < 65536 ∧ r.airTemp < 256 ∧
    if r.kind = .cool then -32768 ≤ r.target ∧ r.target < 32768 else 0 ≤ r.target ∧ r.target < 65536

theorem targetOf_be16Int {kind : StepKind} {target : Int}
    (h : if kind = .cool then -32768 ≤ target ∧ target < 32768 else 0 ≤ target ∧ target < 65536) :
    targetOf kind (byteOf ((BitVec.ofInt 16 target).toNat / 256)) (byteOf (BitVec.ofInt 16 target).toNat) = target := by
  unfold targetOf
  by_cases hcool : kind = .cool
  · simp only [hcool, if_true] at h ⊢
    exact int16_be16Int h.1 h.2
  · simp only [hcool, if_false] at h ⊢
    rw [nat16_be16Int]; omega

theorem be16Int_targetOf (kind : StepKind) (hi lo : Byte) : be16Int (targetOf kind hi lo) = [hi, lo] := by
  unfold targetOf
  split
  next => exact be16Int_int16 hi lo
  next => exact be16Int_nat16 hi lo

theorem targetOf_fits (kind : StepKind) (hi lo : Byte) :
    if kind = .cool then -32768 ≤ targetOf kind hi lo ∧ targetOf kind hi lo < 32768
    else 0 ≤ targetOf kind hi lo ∧ targetOf kind hi lo < 65536 := by
  have hhi := hi.isLt; have hlo := lo.isLt
  split
  next hcool => simp only [targetOf_eq, hcool, true_and]; split <;> omega
  next hother => simp only [targetOf_eq, hother, false_and, if_false]; omega

theorem parseSteps_bytes (l : List StepRecord) (h : ∀ r ∈ l, r.Fits) : parseSteps l.length (l.flatMap StepRecord.bytes) = some l := by
  induction l with
  | nil => rfl
  | cons r rest ih =>
    obtain ⟨hfan, hduration, hair, htarget⟩ := h r (by simp)
    have hrest := ih fun q hq => h q (by simp [hq])
    rw [List.flatMap_cons, List.length_cons]
    change (match StepKind.ofCode r.kind.code, parseSteps rest.length (rest.flatMap StepRecord.bytes) with
      | some k, some more => some (({ kind := k, fanLevel := (byteOf r.fanLevel).toNat, flags := r.flags
                                      duration := nat16 (byteOf (r.duration / 256)) (byteOf r.duration)
                                      target := targetOf k (byteOf ((BitVec.ofInt 16 r.target).toNat / 256))
                                        (byteOf (BitVec.ofInt 16 r.target).toNat)
                                      airTemp := (byteOf r.airTemp).toNat } : StepRecord) :: more)
      | _, _ => none) = _
    rw [StepKind.ofCode_code, hrest]
    simp only [byteOf_toNat_lt hfan, byteOf_toNat_lt hair, nat16_byteOf_lt hduration, targetOf_be16Int htarget]

theorem parseSteps_some {n : Nat} {bytes : List Byte} {l : List StepRecord} (h : parseSteps n bytes = some l) :
    l.length = n ∧ (∀ r ∈ l, r.Fits) ∧ l.flatMap StepRecord.bytes = bytes := by
  induction n generalizing bytes l with
  | zero =>
    match bytes with
    | [] => cases h; simp
    | _ :: _ => cases h
  | succ n ih =>
    match bytes with
    | kind :: fan :: flags :: d1 :: d0 :: t1 :: t0 :: air :: rest =>
      simp only [parseSteps] at h
      split at h
      next k more hk hmore =>
        obtain ⟨hlen, hfits, hbytes⟩ := ih hmore
        obtain rfl : _ :: more = l := by simpa using h
        refine ⟨by simp [hlen], ?_, ?_⟩
        · simp only [List.mem_cons, forall_eq_or_imp]
          exact ⟨⟨fan.isLt, nat16_lt .., air.isLt, targetOf_fits ..⟩, hfits⟩
        · simp [StepRecord.bytes, hbytes, be16_nat16, be16Int_targetOf, byteOf_of_toNat, StepKind.code_of_ofCode hk]
      next => cases h
    | [] | [_] | [_, _] | [_, _, _] | [_, _, _, _] | [_, _, _, _, _] | [_, _, _, _, _, _] | [_, _, _, _, _, _, _] => cases h

/-! ## The program record (R1) -/

theorem Program.bytes_length (p : Program) : p.bytes.length = 4 + 8 * p.steps.length := by
  have hsteps : (p.steps.flatMap StepRecord.bytes).length = 8 * p.steps.length := by
    simp [List.length_flatMap, StepRecord.bytes_length, Nat.mul_comm]
  simp [Program.bytes, be16_length, hsteps]; omega

theorem parseProgram_bytes {p : Program} (h : p.OnTheWire) : parseProgram p.bytes = some p := by
  obtain ⟨hlimit, hfloor, hone, htwelve, hsteps⟩ := h
  have hcount : (byteOf p.steps.length).toNat = p.steps.length := byteOf_toNat_lt (by omega)
  have hparse := parseSteps_bytes p.steps hsteps
  have hlen := p.bytes_length
  change (if 1 ≤ (byteOf p.steps.length).toNat ∧ (byteOf p.steps.length).toNat ≤ 12 ∧
      p.bytes.length = 4 + 8 * (byteOf p.steps.length).toNat then
    match parseSteps (byteOf p.steps.length).toNat (p.steps.flatMap StepRecord.bytes) with
      | some steps => some ({ fabricLimit := (byteOf p.fabricLimit).toNat
                              rateFloor := nat16 (byteOf (p.rateFloor / 256)) (byteOf p.rateFloor), steps := steps } : Program)
      | none => none
    else none) = some p
  rw [hcount, if_pos ⟨hone, htwelve, hlen⟩, hparse]
  simp only [byteOf_toNat_lt hlimit, nat16_byteOf_lt hfloor]

theorem parseProgram_some {bytes : List Byte} {p : Program} (h : parseProgram bytes = some p) : p.OnTheWire ∧ p.bytes = bytes := by
  match bytes with
  | limit :: r1 :: r0 :: count :: body =>
    simp only [parseProgram] at h
    split at h
    next hcount =>
      split at h
      next steps hsteps =>
        obtain ⟨hlen, hfits, hbytes⟩ := parseSteps_some hsteps
        obtain rfl : _ = p := by simpa using h
        obtain ⟨hone, htwelve, -⟩ := hcount
        refine ⟨⟨limit.isLt, nat16_lt .., hlen ▸ hone, hlen ▸ htwelve, hfits⟩, ?_⟩
        simp [Program.bytes, hbytes, be16_nat16, byteOf_of_toNat, hlen]
      next => cases h
    next => cases h
  | [] | [_] | [_, _] | [_, _, _] => cases h

/-- Settles O19: the steps by induction on the record, with the header read field by field. -/
theorem programRecordsDecodeAndEncode : Obligations.ProgramRecordsDecodeAndEncode := by
  unfold Obligations.ProgramRecordsDecodeAndEncode
  refine ⟨fun p h => ⟨parseProgram_bytes h, p.bytes_length, byteOf_toNat_lt h.1, nat16_byteOf_lt h.2.1, ?_, fun i r hr => ?_⟩,
    fun bytes p h => parseProgram_some h, rfl⟩
  · exact byteOf_toNat_lt (by have := h.2.2.2.1; omega)
  · obtain ⟨hfan, hduration, hair, -⟩ := h.2.2.2.2 r (List.mem_of_getElem? hr)
    have hbyte (j : Nat) (hj : j < 8) : p.bytes.getD (4 + 8 * i + j) 0 = r.bytes.getD j 0 := p.bytes_getD i j r hr hj
    have hat (n j : Nat) (hj : j < 8) (hn : n = 4 + 8 * i + j) : p.bytes.getD n 0 = r.bytes.getD j 0 := by rw [hn]; exact hbyte j hj
    refine ⟨hat _ 0 (by decide) (by omega), ?_, hat _ 2 (by decide) (by omega), ?_, ?_, ?_⟩
    · rw [hat _ 1 (by decide) (by omega)]; exact byteOf_toNat_lt hfan
    · rw [fieldAt, hat _ 3 (by decide) (by omega), hat _ 4 (by decide) (by omega)]; exact nat16_byteOf_lt hduration
    · rw [fieldAt, hat _ 5 (by decide) (by omega), hat _ 6 (by decide) (by omega)]; exact nat16_be16Int r.target
    · rw [hat _ 7 (by decide) (by omega)]; exact byteOf_toNat_lt hair

/-! ## The settings record (R168, R178) -/

theorem forall_bay {P : Bay → Prop} : (∀ k, P k) ↔ P 0 ∧ P 1 ∧ P 2 ∧ P 3 :=
  ⟨fun h => ⟨h 0, h 1, h 2, h 3⟩, fun ⟨h0, h1, h2, h3⟩ k => match k with
    | 0 => h0
    | 1 => h1
    | 2 => h2
    | 3 => h3⟩

theorem inRange_iff (st : Settings) : st.inRange = true ↔
    st.baseReserve ≤ 1000 ∧ 500 ≤ st.steamDraw ∧ st.steamDraw ≤ 3000 ∧ 200 ≤ st.compressorDraw ∧
    st.compressorDraw ≤ 1500 ∧ st.reheaterDraw ≤ 1000 ∧ st.dwell ≤ 60 ∧ st.warmHold ≤ 600 ∧ st.minOff ≤ 600 ∧
    st.minRun ≤ 600 ∧ 60 ≤ st.waitTimeout ∧ st.waitTimeout ≤ 7200 ∧ 30 ≤ st.starvationAge ∧
    st.starvationAge ≤ 3600 ∧ (∀ k : Bay, 1 ≤ st.duct.get k ∧ st.duct.get k ≤ 2000) ∧ st.reservoirLow ≤ 1000 ∧
    st.reservoirResume ≤ 1000 ∧ st.condensateFull ≤ 1000 ∧ st.condensateResume ≤ 1000 ∧ st.drainOn ≤ 1000 ∧
    st.drainOff ≤ 1000 := by
  rw [forall_bay]
  simp only [Settings.inRange, Bool.and_eq_true, decide_eq_true_eq, and_assoc]
  rfl

theorem marksOrdered_iff (st : Settings) : st.marksOrdered = true ↔ st.reservoirLow < st.reservoirResume ∧
    st.condensateResume < st.condensateFull ∧ st.drainOff < st.drainOn ∧ st.drainOn < st.condensateFull := by
  simp only [Settings.marksOrdered, Bool.and_eq_true, decide_eq_true_eq, and_assoc]

/-- The record, field after field. -/
theorem settings_layout (st : Settings) : st.bytes = be16 st.baseReserve ++ (be16 st.steamDraw ++ (be16 st.compressorDraw ++
    (be16 st.reheaterDraw ++ (byteOf st.dwell :: (be16 st.warmHold ++ (be16 st.minOff ++ (be16 st.minRun ++ (be16 st.waitTimeout ++
    (be16 st.starvationAge ++ (be16 st.duct.b0 ++ (be16 st.duct.b1 ++ (be16 st.duct.b2 ++ (be16 st.duct.b3 ++
    (be16 st.reservoirLow ++ (be16 st.reservoirResume ++ (be16 st.condensateFull ++ (be16 st.condensateResume ++
    (boolByte st.drainFitted :: (be16 st.drainOn ++ be16 st.drainOff))))))))))))))))))) := by
  unfold Settings.bytes
  simp only [List.append_assoc, List.cons_append, List.nil_append]

theorem settings_length (st : Settings) : st.bytes.length = 40 := by
  rw [settings_layout]
  rfl

theorem settings_drain (st : Settings) : st.bytes.getD 35 0 = boolByte st.drainFitted := by
  rw [settings_layout]
  rfl

theorem readSettings_bytes {st : Settings} (h : st.inRange = true) : readSettings st.bytes = st := by
  have hranges := (inRange_iff st).mp h
  rw [forall_bay] at hranges
  have hbool : decide (boolByte st.drainFitted = 1) = st.drainFitted := by cases st.drainFitted <;> rfl
  obtain ⟨base, steam, comp, reheat, dwell, warm, off, run, wait, age, ⟨d0, d1, d2, d3⟩, low, resume, full, back, fitted, on, done⟩ := st
  simp only [PerBay.get] at hranges
  simp only at hbool
  rw [settings_layout]
  simp only [readSettings, fieldAt, be16, List.cons_append, List.nil_append, List.getD_cons_succ, List.getD_cons_zero, hbool,
    nat16_byteOf, byteOf_toNat_mod, Settings.mk.injEq, PerBay.mk.injEq, true_and]
  omega

theorem list_eq_getD {α : Type} (l : List α) (d : α) : l = (List.range l.length).map fun i => l.getD i d :=
  List.ext_getElem (by simp) fun i h _ => by simp [h]

theorem settings_bytes_read {bytes : List Byte} (hlen : bytes.length = 40) (hdrain : bytes.getD 35 0 = 0 ∨ bytes.getD 35 0 = 1) :
    (readSettings bytes).bytes = bytes := by
  have hbool : boolByte (decide (bytes.getD 35 0 = 1)) = bytes.getD 35 0 := by
    obtain h | h := hdrain <;> rw [h] <;> rfl
  have hread : (readSettings bytes).bytes = (List.range 40).map fun i => bytes.getD i 0 := by
    rw [settings_layout]
    simp only [readSettings, be16_fieldAt, byteOf_of_toNat, hbool, List.cons_append, List.nil_append, Nat.reduceAdd]
    rfl
  rw [hread, ← hlen, ← list_eq_getD]

/-- Settles O20. -/
theorem settingsRecordsDecodeAndEncode : Obligations.SettingsRecordsDecodeAndEncode := by
  unfold Obligations.SettingsRecordsDecodeAndEncode
  refine ⟨fun st hrange hmarks => ⟨?_, settings_length st⟩, fun bytes st hlen h => ?_, fun st => ⟨inRange_iff st, marksOrdered_iff st⟩⟩
  · have hdrain : st.bytes.getD 35 0 = 0 ∨ st.bytes.getD 35 0 = 1 := by
      rw [settings_drain]
      cases st.drainFitted
      · exact .inl rfl
      · exact .inr rfl
    rw [parseSettings, readSettings_bytes hrange, hrange, hmarks, if_pos (by simpa using hdrain)]
  · unfold parseSettings at h
    split at h
    next hgood =>
      simp only [Bool.and_eq_true, Bool.or_eq_true, decide_eq_true_eq] at hgood
      obtain ⟨⟨hrange, hmarks⟩, hdrain⟩ := hgood
      cases h
      exact ⟨settings_bytes_read hlen hdrain, hrange, hmarks, rfl⟩
    next => cases h

end Sys2Proof.Machine

/-!
PROOFS. The reports and the lines (R17, R140, R183): each field of a report at its offset, and the other views of the state.
-/

namespace Sys2Proof.Machine

/-! ## Fields of a report -/

theorem flagsByte_four (a b c d : Bool) : (flagsByte [a, b, c, d]).toNat = a.toNat + 2 * b.toNat + 4 * c.toNat + 8 * d.toNat := by
  revert a b c d; decide

theorem flagsByte_five (a b c d e : Bool) :
    (flagsByte [a, b, c, d, e]).toNat = a.toNat + 2 * b.toNat + 4 * c.toNat + 8 * d.toNat + 16 * e.toNat := by
  revert a b c d e; decide

theorem boolByte_toNat (b : Bool) : (boolByte b).toNat = b.toNat := by cases b <;> rfl

/-- A field of two bytes, given where they stand. -/
theorem fieldAt_of_bytes {l : List Byte} {i n : Nat} (h : l.getD i 0 = byteOf (n / 256)) (h' : l.getD (i + 1) 0 = byteOf n) :
    fieldAt l i = n % 65536 := by
  rw [fieldAt, h, h', nat16_byteOf]

theorem fieldAt_of_int {l : List Byte} {j : Nat} {i : Int} (h : l.getD j 0 = byteOf ((BitVec.ofInt 16 i).toNat / 256))
    (h' : l.getD (j + 1) 0 = byteOf (BitVec.ofInt 16 i).toNat) : (fieldAt l j : Int) = i % 65536 := by
  rw [fieldAt, h, h', nat16_be16Int]

/-- The four bytes of a signed number, as two fields. -/
theorem fieldAt_of_long {l : List Byte} {j : Nat} {i : Int} {n : Nat} (hn : n = (BitVec.ofInt 32 i).toNat)
    (h0 : l.getD j 0 = byteOf (n / 65536 / 256)) (h1 : l.getD (j + 1) 0 = byteOf (n / 65536))
    (h2 : l.getD (j + 2) 0 = byteOf (n / 256)) (h3 : l.getD (j + 3) 0 = byteOf n) :
    ((fieldAt l j * 65536 + fieldAt l (j + 2) : Nat) : Int) = i % 4294967296 := by
  rw [fieldAt_of_bytes h0 h1, fieldAt_of_bytes h2 h3, hn, BitVec.toNat_ofInt]
  omega

/-- Entries of one length stand one after another. -/
theorem flatMap_getD {α : Type} {f : α → List Byte} {m : Nat} (hf : ∀ a, (f a).length = m) (l : List α) {i j : Nat} {a : α}
    (ha : l[i]? = some a) (hj : j < m) : (l.flatMap f).getD (m * i + j) 0 = (f a).getD j 0 := by
  induction l generalizing i with
  | nil => cases ha
  | cons b rest ih =>
    rw [List.flatMap_cons]
    cases i with
    | zero =>
      cases ha
      rw [List.getD_append _ _ _ _ (by rw [hf]; omega), Nat.mul_zero, Nat.zero_add]
    | succ i =>
      rw [List.getD_append_right _ _ _ _ (by rw [hf, Nat.mul_succ]; omega), hf, ← ih ha]
      congr 1
      rw [Nat.mul_succ]; omega

/-! ## The three reports -/

namespace State

variable (s : State)

theorem slotBytes_two (d : Option DrySlot) : ∃ x y, slotBytes d = [x, y] := by
  cases d with
  | none => exact ⟨_, _, rfl⟩
  | some d => exact ⟨_, _, rfl⟩

theorem plantReport_length (h : s.RingWhole) : s.plantReport.length = 30 := by
  obtain ⟨a, b, hA⟩ := slotBytes_two s.arb.slotA
  obtain ⟨c, d, hB⟩ := slotBytes_two s.arb.slotB
  simp [plantReport, hA, hB, be16_length, be16Int_length, h.length_eq]

theorem channelEntry_length (c : Channel) : (channelEntry c).length = 6 := rfl

theorem channelReport_length : s.channelReport.length = 116 := by
  simp [channelReport, be16_length, List.length_flatMap, channelEntry_length]

theorem exec_readBay (o : Origin) (ha : s.Accepts o.port) (ho : o.inRange = true) :
    exec (.readBay o) s = .next (s.replyWith o.port (s.bayReport o.bay)) :=
  congrArg Host.Outcome.next (bayCommand_of_passes _ ha (Command.passes_bay o rfl rfl rfl (by decide) ho))

theorem exec_readPlant (p : Port) (ha : s.Accepts p) : exec (.readPlant p) s = .next (s.replyWith p s.plantReport) :=
  congrArg Host.Outcome.next (command_of_passes _ ha (Command.passes_open p (.inr rfl) rfl rfl (by decide)))

theorem exec_readChannels (ha : s.Accepts .service) :
    exec (.readChannels .service) s = .next (s.replyWith .service s.channelReport) :=
  congrArg Host.Outcome.next (command_of_passes _ ha (Command.passes_service (by decide) rfl rfl (by decide)))

/-- Each channel's entry in READ_CHANNELS (R140). -/
theorem channelReport_getD (n : ChannelNo) {j : Nat} (hj : j < 6) :
    s.channelReport.getD (2 + (6 * n.val + j)) 0 = (channelEntry (s.chan n)).getD j 0 := by
  have hn : s.scan.channels.toList[n.val]? = some (s.chan n) := by simp [chan]
  rw [← flatMap_getD channelEntry_length _ hn hj, channelReport, List.getD_append_right _ _ _ _ (by simp [be16_length]), be16_length,
    Nat.add_sub_cancel_left]

theorem channelReport_at (n : ChannelNo) {i j : Nat} (hj : j < 6) (hi : i = 2 + (6 * n.val + j)) :
    s.channelReport.getD i 0 = (channelEntry (s.chan n)).getD j 0 := by rw [hi]; exact s.channelReport_getD n hj

theorem channelReport_fields (n : ChannelNo) :
    fieldAt s.channelReport (2 + 6 * n.val) = (s.chan n).raw.toNat ∧
    (fieldAt s.channelReport (4 + 6 * n.val) : Int) = (s.chan n).value % 65536 ∧
    (s.channelReport.getD (6 + 6 * n.val) 0).toNat = (s.chan n).faulted.toNat ∧
    ((s.channelReport.getD (7 + 6 * n.val) 0).toNat : Int) = (s.chan n).trim % 256 := by
  have hraw := (s.chan n).raw.isLt
  refine ⟨?_, ?_, ?_, ?_⟩
  · rw [fieldAt_of_bytes (n := (s.chan n).raw.toNat) (s.channelReport_at n (j := 0) (by decide) (by omega))
      (s.channelReport_at n (j := 1) (by decide) (by omega)), Nat.mod_eq_of_lt (by omega)]
  · exact fieldAt_of_int (s.channelReport_at n (j := 2) (by decide) (by omega)) (s.channelReport_at n (j := 3) (by decide) (by omega))
  · rw [s.channelReport_at n (j := 4) (by decide) (by omega)]
    exact boolByte_toNat _
  · rw [s.channelReport_at n (j := 5) (by decide) (by omega)]
    change ((BitVec.ofInt 8 (s.chan n).trim).toNat : Int) = _
    rw [BitVec.toNat_ofInt]; omega

/-- The bay report, field after field. -/
theorem bayReport_layout (s : State) (k : Bay) : s.bayReport k =
    (s.bay k).state.code :: sourceCode (s.bay k).source :: byteOf (s.bay k).stepIndex :: byteOf (s.bay k).stepCount ::
    (be16 (secondsUp (s.bay k).stepRemaining) ++ (be16 (secondsDown (s.bay k).waitElapsed) ++
    ((s.arb.grantHeld k).code :: (s.bay k).outcome.code :: faultCode (s.bay k).fault :: s.conditions k ::
    byteOf (s.bay k).overheatRun ::
    (be16 (secondsUp ((s.bay k).purgeRemaining.getD 0)) ++
    ((s.air k).damper.code :: byteOf (s.air k).fanLevel ::
    (be16 ((s.air k).tacho.period.getD 0) ++
    (be16 ((s.est.get k).m / 1000).toNat ++ (byteOf (s.est.get k).window.length :: (be32Int (s.est.get k).window.sum ++
    (be16Int (s.chan (bayChannel k 0)).value ++ (be16Int (s.chan (bayChannel k 1)).value ++
    (be16Int (s.chan (bayChannel k 2)).value ++ (be16Int (s.chan (bayChannel k 3)).value ++
    [flagsByte [(s.chan (bayChannel k 0)).faulted, (s.chan (bayChannel k 1)).faulted,
      (s.chan (bayChannel k 2)).faulted, (s.chan (bayChannel k 3)).faulted]]))))))))))))) := by
  unfold bayReport
  simp only [List.append_assoc, List.cons_append, List.nil_append]

theorem bayReport_fields (k : Bay) (r : List Byte) (h : r = s.bayReport k) :
    r.getD 0 0 = (s.bay k).state.code ∧ r.getD 1 0 = sourceCode (s.bay k).source ∧
    (r.getD 2 0).toNat = (s.bay k).stepIndex % 256 ∧ (r.getD 3 0).toNat = (s.bay k).stepCount % 256 ∧
    fieldAt r 4 = ((s.bay k).stepRemaining + 99) / 100 % 65536 ∧ fieldAt r 6 = (s.bay k).waitElapsed / 100 % 65536 ∧
    r.getD 8 0 = (s.arb.grantHeld k).code ∧ r.getD 9 0 = (s.bay k).outcome.code ∧ r.getD 10 0 = faultCode (s.bay k).fault ∧
    (r.getD 11 0).toNat = (s.bay k).underdry.toNat + 2 * (decide ((s.bay k).door = .opened)).toNat +
      4 * (s.air k).vent.toNat + 8 * (s.air k).reheater.toNat + 16 * (s.est.get k).valid.toNat ∧
    (r.getD 12 0).toNat = (s.bay k).overheatRun % 256 ∧
    fieldAt r 13 = ((s.bay k).purgeRemaining.getD 0 + 99) / 100 % 65536 ∧ r.getD 15 0 = (s.air k).damper.code ∧
    (r.getD 16 0).toNat = (s.air k).fanLevel % 256 ∧ fieldAt r 17 = (s.air k).tacho.period.getD 0 % 65536 ∧
    fieldAt r 19 = ((s.est.get k).m / 1000).toNat % 65536 ∧ (r.getD 21 0).toNat = (s.est.get k).window.length % 256 ∧
    ((fieldAt r 22 * 65536 + fieldAt r 24 : Nat) : Int) = (s.est.get k).window.sum % 4294967296 ∧
    (∀ j : Fin 4, (fieldAt r (26 + 2 * j.val) : Int) = (s.chan (bayChannel k j)).value % 65536) ∧
    (r.getD 34 0).toNat = (s.chan (bayChannel k 0)).faulted.toNat + 2 * (s.chan (bayChannel k 1)).faulted.toNat +
      4 * (s.chan (bayChannel k 2)).faulted.toNat + 8 * (s.chan (bayChannel k 3)).faulted.toNat := by
  rw [bayReport_layout] at h
  subst h
  refine ⟨rfl, rfl, byteOf_toNat_mod _, byteOf_toNat_mod _, fieldAt_of_bytes rfl rfl, fieldAt_of_bytes rfl rfl, rfl, rfl, rfl,
    flagsByte_five .., byteOf_toNat_mod _, fieldAt_of_bytes rfl rfl, rfl, byteOf_toNat_mod _, fieldAt_of_bytes rfl rfl,
    fieldAt_of_bytes rfl rfl, byteOf_toNat_mod _, fieldAt_of_long rfl rfl rfl rfl rfl, ?_, flagsByte_four ..⟩
  rw [forall_bay]
  exact ⟨fieldAt_of_int rfl rfl, fieldAt_of_int rfl rfl, fieldAt_of_int rfl rfl, fieldAt_of_int rfl rfl⟩

theorem plantReport_fields (r : List Byte) (h : r = s.plantReport) :
    r.getD 0 0 = s.arb.commissioning.code ∧ r.getD 1 0 = s.resetCause.code ∧ fieldAt r 2 = s.arb.budget % 65536 ∧
    fieldAt r 4 = s.arb.committed % 65536 ∧ r.getD 6 0 = holderCode s.arb.steamRow ∧
    [r.getD 7 0, r.getD 8 0] = slotBytes s.arb.slotA ∧ [r.getD 9 0, r.getD 10 0] = slotBytes s.arb.slotB ∧
    r.getD 11 0 = s.steam.gen.code ∧ r.getD 12 0 = s.steam.tripCause.code ∧ r.getD 13 0 = s.dry.comp.code ∧
    (fieldAt r 14 : Int) = (s.chan boilerChannel).value % 65536 ∧ (fieldAt r 16 : Int) = s.water.reservoirLevel % 65536 ∧
    (r.getD 18 0).toNat = s.water.reservoirLow.toNat ∧ (fieldAt r 19 : Int) = s.water.condensateLevel % 65536 ∧
    (r.getD 21 0).toNat = s.water.condensateFull.toNat ∧ r.getD 22 0 = s.water.pump.code ∧
    (r.getD 23 0).toNat = s.water.drainFault.toNat ∧
    (s.RingWhole → (∀ i : Fin 4, s.arb.ring[i.val]?.map (·.val) = some (r.getD (24 + i.val) 0).toNat) ∧
      r.getD 28 0 = s.arb.mode.code ∧ (r.getD 29 0).toNat = (s.arb.masks.get 0).toNat + 2 * (s.arb.masks.get 1).toNat +
        4 * (s.arb.masks.get 2).toNat + 8 * (s.arb.masks.get 3).toNat) := by
  obtain ⟨a, b, hA⟩ := slotBytes_two s.arb.slotA
  obtain ⟨c, d, hB⟩ := slotBytes_two s.arb.slotB
  unfold plantReport at h
  simp only [hA, hB, List.append_assoc, List.cons_append, List.nil_append] at h
  rw [hA, hB]
  subst h
  refine ⟨rfl, rfl, fieldAt_of_bytes rfl rfl, fieldAt_of_bytes rfl rfl, rfl, rfl, rfl, rfl, rfl, rfl, fieldAt_of_int rfl rfl,
    fieldAt_of_int rfl rfl, boolByte_toNat _, fieldAt_of_int rfl rfl, boolByte_toNat _, rfl, boolByte_toNat _, fun hring => ?_⟩
  have hlen : s.arb.ring.length = 4 := hring.length_eq
  match hr : s.arb.ring, hlen with
  | [w, x, y, z], _ =>
    have hbay (k : Bay) : some k.val = some (byteOf k.val).toNat := by rw [byteOf_toNat_lt (by omega)]
    refine ⟨?_, rfl, flagsByte_four ..⟩
    rw [forall_bay]
    exact ⟨hbay w, hbay x, hbay y, hbay z⟩

theorem grantHeld_eq (a : Arbiter) (k : Bay) : a.grantHeld k =
    if a.steamRow = some k then .steam
    else match a.reheatOf k with
      | none => .none
      | some .notAsked => .dry
      | some .on => .dryReheat
      | some .pending => .dryPending := by
  unfold Arbiter.grantHeld Arbiter.holdsSteam
  simp only [decide_eq_true_eq]
  split
  next => rfl
  next =>
    match a.reheatOf k with
    | none | some .notAsked | some .on | some .pending => rfl

end State

theorem readByte_reply (r : PortRec) {a : Reply} (h : r.reply = some a) (n : Nat) : r.readByte 0 = a.status.code ∧
    (r.readByte 1).toNat = a.data.length % 256 ∧ r.readByte (n + 2) = a.data.getD n 0 := by
  have hread (i : Nat) : r.readByte i = a.bytes.getD i 0 := by unfold PortRec.readByte; rw [h]
  exact ⟨hread 0, by rw [hread 1]; exact byteOf_toNat_mod _, hread (n + 2)⟩

/-- Settles O11: every report is a list of fields whose places are known, and the lines are views of the state. -/
theorem theReportsAnswerAtOnceInTheirLengths : Obligations.TheReportsAnswerAtOnceInTheirLengths := by
  unfold Obligations.TheReportsAnswerAtOnceInTheirLengths
  refine ⟨fun s => ⟨fun o ha ho => ⟨s.exec_readBay o ha ho, rfl⟩, fun p ha => ⟨s.exec_readPlant p ha, s.plantReport_length⟩,
      fun ha => ⟨s.exec_readChannels ha, s.channelReport_length⟩⟩,
    fun s k r hr => s.bayReport_fields k r hr, fun s r hr => s.plantReport_fields r hr, fun s r hr => ?_, ?codes,
    State.grantHeld_eq, fun r n => ⟨fun h => ?_, fun a h => readByte_reply r h n⟩, fun s a => decide_eq_true_iff, fun s o ho => ?_⟩
  · subst hr
    exact ⟨fieldAt_of_bytes rfl rfl, s.channelReport_fields⟩
  case codes =>
    exact ⟨rfl, rfl, rfl, rfl, rfl, rfl, rfl, rfl, rfl, rfl, rfl, rfl, rfl, fun n => byteOf_toNat_lt (by omega), rfl, rfl,
      fun k => byteOf_toNat_lt (by omega), rfl, rfl, fun k st => rfl, rfl, rfl, fun k j => rfl⟩
  · unfold PortRec.readByte; rw [h]
  · subst ho
    refine ⟨rfl, ?_, ?_, rfl, decide_eq_true_iff, rfl, fun k => PerBay.get_ofFn ..⟩
    · exact Option.isSome_iff_ne_none
    · simp [State.outputs, DryingCircuit.enabled]

end Sys2Proof.Machine

/-!
PROOFS. The notices (R180 to R182): what a raise reaches, the attention line, and the two port commands.
-/

namespace Sys2Proof.Machine

/-! ## Notice sets -/

theorem getLsbD_or_baySet (set : BitVec 4) (k j : Bay) :
    (set ||| BitVec.twoPow 4 k.val).getLsbD j.val = (set.getLsbD j.val || decide (j = k)) := by
  simp [Fin.ext_iff, eq_comm]

/-- Bit by bit, the kinds are the members of the set (Wire Layouts). -/
theorem kinds_bits (ns : NoticeSet) :
    [ns.kinds.getLsbD 0, ns.kinds.getLsbD 1, ns.kinds.getLsbD 2, ns.kinds.getLsbD 3, ns.kinds.getLsbD 4,
      ns.kinds.getLsbD 5, ns.kinds.getLsbD 6, ns.kinds.getLsbD 7, ns.kinds.getLsbD 8, ns.kinds.getLsbD 9] =
    [ns.step != 0, ns.grant != 0, ns.finish != 0, ns.halt != 0, ns.door != 0, ns.waterLow, ns.tankFull, ns.shed, ns.trip,
      ns.library] := by
  simp only [NoticeSet.kinds, BitVec.getLsbD_append, BitVec.getLsbD_ofBool]
  simp

theorem byteOf_set (b : BitVec 4) : byteOf b.toNat = b.setWidth 8 :=
  BitVec.eq_of_toNat_eq (by simp [byteOf])

theorem report_kinds (ns : NoticeSet) : fieldAt ns.report 0 = ns.kinds.toNat := by
  rw [fieldAt_of_bytes (n := ns.kinds.toNat) rfl rfl, Nat.mod_eq_of_lt (by have := ns.kinds.isLt; omega)]

/-- The line is low while the set and the mask share a kind (R181). -/
theorem attentionLow_iff (r : PortRec) :
    r.attentionLow = true ↔ ∃ i < 10, r.notices.kinds.getLsbD i = true ∧ r.mask.getLsbD i = true := by
  have shared (i : Nat) : (r.notices.kinds &&& r.mask).getLsbD i = true ↔
      r.notices.kinds.getLsbD i = true ∧ r.mask.getLsbD i = true := by
    rw [BitVec.getLsbD_and, Bool.and_eq_true]
  have hzero (i : Nat) : (0 : BitVec 10).getLsbD i = false := BitVec.getLsbD_zero
  unfold PortRec.attentionLow
  rw [bne_iff_ne]
  constructor
  · intro h
    by_contra hnone
    refine h (BitVec.eq_of_getLsbD_eq fun i hi => ?_)
    rw [hzero, Bool.eq_false_iff]
    exact fun hb => hnone ⟨i, hi, (shared i).mp hb⟩
  · rintro ⟨i, -, hb⟩ h
    have := (shared i).mpr hb
    rw [h, hzero] at this
    exact Bool.noConfusion this

namespace State

variable (s : State)

theorem raiseBay_others (n : BayNotice) (k : Bay) : { s.raiseBay n k with ports := s.ports } = s := rfl

theorem bus_of_stable {s t : State} (h : t.stable = s.stable) (q : Port) : (t.port q).bus = (s.port q).bus :=
  congrFun (congrArg Stable.bus h) q

theorem exec_readNotices (p : Port) (ha : s.Accepts p) : exec (.readNotices p) s = .next (s.mapPort p PortRec.readNotices) :=
  congrArg Host.Outcome.next (command_of_passes _ ha (Command.passes_open p (.inl rfl) rfl rfl (by decide)))

theorem exec_setNoticeMask (p : Port) (mask : Word16) (ha : s.Accepts p) :
    exec (.setNoticeMask p mask) s = .next ((s.mapPort p fun r => { r with mask := mask.setWidth 10 }).reply p .ok) :=
  congrArg Host.Outcome.next (command_of_passes _ ha (Command.passes_open p (.inl rfl) rfl rfl (by decide)))

/-- What is left in the set is not enabled. -/
theorem readNotices_releases (p : Port) : ((s.mapPort p PortRec.readNotices).port p).attentionLow = false := by
  rw [mapPort_port, if_pos rfl]
  change (((s.port p).notices.select (~~~(s.port p).mask)).kinds &&& (s.port p).mask != 0) = _
  rw [kinds_select, BitVec.and_assoc, BitVec.and_comm (~~~_)]
  simp

end State

/-- Settles O12. -/
theorem thePortCommandsReadAndMaskNotices : Obligations.ThePortCommandsReadAndMaskNotices := by
  unfold Obligations.ThePortCommandsReadAndMaskNotices
  refine ⟨fun p s ha => ⟨_, s.exec_readNotices p ha, rfl, rfl, s.readNotices_releases p, kinds_select .., ?_⟩,
    fun s => ⟨fun n k => ⟨s.raiseBay_notices n k, State.bus_of_stable (State.raiseBay_stable s k n), s.raiseBay_others n k⟩,
      fun n => ⟨s.raisePlant_notices n, State.bus_of_stable (State.raisePlant_stable s n), rfl⟩⟩,
    fun ns k => ⟨rfl, rfl, rfl, rfl, rfl, fun set j => getLsbD_or_baySet set k j, rfl, rfl, rfl, rfl, rfl⟩,
    attentionLow_iff, fun _ _ => rfl, fun ns => ⟨rfl, report_kinds ns, kinds_bits ns, ?_⟩, fun p mask s ha => ?_⟩
  · rw [State.mapPort_port, if_pos rfl]
    exact kinds_select ..
  · change [byteOf ns.step.toNat, byteOf ns.grant.toNat, byteOf ns.finish.toNat, byteOf ns.halt.toNat, byteOf ns.door.toNat] = _
    simp only [byteOf_set]
  · rw [s.exec_setNoticeMask p mask ha, State.reply, State.mapPort_mapPort]
    rfl

end Sys2Proof.Machine

/-!
PROOFS. The library (R5 to R13): the slot tests, the three operations, their phases, and a record's way into a slot and out of it.
-/

namespace Sys2Proof.Machine

/-! ## Slots (R5, R7, R13) -/

theorem slotOfByte_of_le {b : Byte} (h : 16 ≤ b.toNat) : slotOfByte b = none := dif_neg (by omega)

theorem slotOfByte_eq {b : Byte} {n : Fin 16} (h : b.toNat = n.val) : slotOfByte b = some n := by
  rw [slotOfByte, dif_pos (by omega)]
  exact congrArg some (Fin.ext h)

namespace Library

variable (l : Library) (n : Fin 16)

theorem busy_iff : l.busy n = true ↔ (∃ ph r, l.op = .writing n ph r) ∨ l.op = .erasing n ∨ ∃ m, l.op = .erasingAll m := by
  unfold busy
  cases l.op <;> simp

theorem lookup_out_of_range {slot : Byte} (h : 16 ≤ slot.toNat) : l.lookup slot = .error .badValue := by
  rw [lookup, slotOfByte_of_le h]

variable {l n} {slot : Byte} (hslot : slot.toNat = n.val)

include hslot

theorem lookup_busy (h : l.busy n = true) : l.lookup slot = .error .slotBusy := by
  rw [lookup, slotOfByte_eq hslot]
  exact if_pos h

theorem lookup_empty (h : l.busy n = false) (hempty : l.slots[n] = none) : l.lookup slot = .error .slotEmpty := by
  rw [lookup, slotOfByte_eq hslot]
  simp only [h, Bool.false_eq_true, if_false, hempty]

theorem lookup_stored {r : Program} (h : l.busy n = false) (hstored : l.slots[n] = some r) : l.lookup slot = .ok r := by
  rw [lookup, slotOfByte_eq hslot]
  simp only [h, Bool.false_eq_true, if_false, hstored]

end Library

namespace State

variable {s : State}

/-! ## READ_RECIPE (R13) -/

section

variable {p : Port} {slot : Byte} (ha : s.Accepts p)

include ha

theorem exec_readRecipe_refused {st : Status} (h : s.library.lookup slot = .error st) :
    exec (.readRecipe p slot) s = .next (s.reply p st) := by
  change Host.Outcome.next (s.command p .readRecipe [slot] _) = _
  rw [command_of_passes _ ha (Command.passes_open (n := 1) p (.inr rfl) rfl rfl (by decide)), h]

theorem exec_readRecipe_stored {r : Program} (h : s.library.lookup slot = .ok r) :
    exec (.readRecipe p slot) s = .next (s.replyWith p r.bytes) := by
  change Host.Outcome.next (s.command p .readRecipe [slot] _) = _
  rw [command_of_passes _ ha (Command.passes_open (n := 1) p (.inr rfl) rfl rfl (by decide)), h]

end

/-! ## The commands that start an operation (R7, R8, R10, R11) -/

theorem takeWrite_refused (p : Port) {slot : Byte} {record : List Byte} (h : 16 ≤ slot.toNat ∨ parseProgram record = none) :
    s.takeWrite p slot record = s.reply p .badValue := by
  unfold takeWrite
  rcases h with h | h
  · rw [slotOfByte_of_le h]
  · rw [h]
    cases slotOfByte slot <;> rfl

theorem takeWrite_stored (p : Port) {slot : Byte} {n : Fin 16} {record : List Byte} {r : Program} (hslot : slot.toNat = n.val)
    (hrecord : parseProgram record = some r) :
    s.takeWrite p slot record = s.beginLibrary (Library.startWrite n r.normalize) := by
  rw [takeWrite, slotOfByte_eq hslot, hrecord]

theorem takeErase_refused (p : Port) {slot : Byte} (h : 16 ≤ slot.toNat) : s.takeErase p slot = s.reply p .badValue := by
  rw [takeErase, slotOfByte_of_le h]

theorem takeErase_slot (p : Port) {slot : Byte} {n : Fin 16} (hslot : slot.toNat = n.val) :
    s.takeErase p slot = s.beginLibrary (Library.startErase n) := by
  rw [takeErase, slotOfByte_eq hslot]

theorem exec_writeRecipe (slot : Byte) (record : List Byte) (ha : s.Accepts .service) (hlen : record.length ≤ 107) :
    exec (.writeRecipe .service slot record) s = .next (s.takeWrite .service slot record) :=
  congrArg Host.Outcome.next (command_of_passes _ ha (Command.passes_writeRecipe slot record hlen))

theorem exec_eraseRecipe (slot : Byte) (ha : s.Accepts .service) :
    exec (.eraseRecipe .service slot) s = .next (s.takeErase .service slot) :=
  congrArg Host.Outcome.next (command_of_passes _ ha (Command.passes_service (by decide) rfl rfl (by decide)))

theorem exec_eraseLibrary (ha : s.Accepts .service) :
    exec (.eraseLibrary .service) s = .next (s.beginLibrary (Library.eraseFrom 0)) :=
  congrArg Host.Outcome.next (command_of_passes _ ha (Command.passes_service (by decide) rfl rfl (by decide)))

end State

/-- Settles O13. -/
theorem readRecipeAnswersByTheSlotTestsInOrder : Obligations.ReadRecipeAnswersByTheSlotTestsInOrder :=
  ⟨fun _ _ s ha =>
    ⟨fun h => State.exec_readRecipe_refused ha (s.library.lookup_out_of_range h), fun _ hslot =>
      ⟨fun hbusy => State.exec_readRecipe_refused ha (Library.lookup_busy hslot hbusy), fun hfree =>
        ⟨fun hempty => State.exec_readRecipe_refused ha (Library.lookup_empty hslot hfree hempty),
          fun _ hstored => State.exec_readRecipe_stored ha (Library.lookup_stored hslot hfree hstored)⟩⟩⟩,
    Library.busy_iff⟩

/-- Settles O14. -/
theorem theLibraryCommandsStartTheirOperations : Obligations.TheLibraryCommandsStartTheirOperations := by
  unfold Obligations.TheLibraryCommandsStartTheirOperations
  refine ⟨fun slot record s ha hlen => ⟨fun hbad => ?refused, fun n r hslot hrecord => ?write⟩, fun s ha =>
    ⟨fun slot hbad => ?eraseRefused, fun slot n hslot => ?erase, State.exec_eraseLibrary ha⟩⟩
  case refused => rw [State.exec_writeRecipe slot record ha hlen, State.takeWrite_refused .service hbad]
  case write =>
    rw [State.exec_writeRecipe slot record ha hlen, State.takeWrite_stored .service hslot hrecord]
    rfl
  case eraseRefused => rw [State.exec_eraseRecipe slot ha, State.takeErase_refused .service hbad]
  case erase =>
    rw [State.exec_eraseRecipe slot ha, State.takeErase_slot .service hslot]
    rfl

/-! ## Phases and completion (R6, R8, R10 to R12) -/

namespace State

variable {s : State}

theorem exec_libraryPhaseEnd_next (h : s.library.inLastPhase = false) :
    exec .libraryPhaseEnd s = .next (s.mapLibrary Library.nextPhase) := by
  change Host.Outcome.next (if s.library.inLastPhase = true then _ else _) = _
  rw [h]
  rfl

theorem exec_libraryCompletion_early (h : s.library.inLastPhase = false) : exec .libraryCompletion s = .next s := by
  change Host.Outcome.next (if s.library.inLastPhase = true then _ else _) = _
  rw [h]
  rfl

/-- In the last phase both rows are the completion (log 6). -/
theorem exec_library_last (h : s.library.inLastPhase = true) {i : Instr} (hi : i ∈ [Instr.libraryPhaseEnd, Instr.libraryCompletion]) :
    exec i s = .next s.completeLibrary := by
  rw [List.mem_pair] at hi
  rcases hi with rfl | rfl <;> exact congrArg Host.Outcome.next (if_pos h)

end State

namespace Library

variable {l : Library} {n : Fin 16} {r : Program}

theorem early_idle (h : l.op = .idle) : l.inLastPhase = false ∧ l.nextPhase = l := by simp [inLastPhase, nextPhase, h]

theorem early_erasing (h : l.op = .writing n .erasing r) :
    l.inLastPhase = false ∧ l.nextPhase = { l with op := .writing n .programming r } := by simp [inLastPhase, nextPhase, h]

theorem early_programming (h : l.op = .writing n .programming r) :
    l.inLastPhase = false ∧ l.nextPhase = { l with op := .writing n .marking r } := by simp [inLastPhase, nextPhase, h]

theorem early_erasingAll (h : l.op = .erasingAll n) (hn : n.val + 1 < 16) : l.inLastPhase = false ∧
    l.nextPhase = { slots := l.slots.set (n.val + 1) none, op := .erasingAll ⟨n.val + 1, hn⟩ } := by
  refine ⟨by simp only [inLastPhase, h, decide_eq_false_iff_not]; omega, ?_⟩
  simp only [nextPhase, h, hn, dite_true]
  rfl

theorem last_marking (h : l.op = .writing n .marking r) :
    l.inLastPhase = true ∧ l.complete = { slots := l.slots.set n (some r), op := .idle } := by
  simp [inLastPhase, complete, h]

theorem last_erasing (h : l.op = .erasing n) : l.inLastPhase = true ∧ l.complete = { l with op := .idle } := by
  simp [inLastPhase, complete, h]

theorem last_erasingAll (h : l.op = .erasingAll 15) : l.inLastPhase = true ∧ l.complete = { l with op := .idle } := by
  simp [inLastPhase, complete, h]

end Library

/-- Settles O15. -/
theorem theLibraryGoesThroughItsPhasesToItsCompletion : Obligations.TheLibraryGoesThroughItsPhasesToItsCompletion := by
  unfold Obligations.TheLibraryGoesThroughItsPhasesToItsCompletion
  intro s
  have next {l : Library} (h : s.library.inLastPhase = false ∧ s.library.nextPhase = l) :
      exec .libraryPhaseEnd s = .next { s with library := l } := by
    rw [State.exec_libraryPhaseEnd_next h.1, ← h.2]
    rfl
  refine ⟨fun h => ⟨next (Library.early_idle h), State.exec_libraryCompletion_early (Library.early_idle h).1⟩, fun h => ?early,
    fun n r h => next (Library.early_erasing h), fun n r h => next (Library.early_programming h),
    fun n hn h => next (Library.early_erasingAll h hn), fun slots h i hi => ?last⟩
  case early =>
    apply State.exec_libraryCompletion_early
    rcases h with ⟨n, r, h | h⟩ | ⟨n, h, hn⟩
    · exact (Library.early_erasing h).1
    · exact (Library.early_programming h).1
    · exact (Library.early_erasingAll h hn).1
  case last =>
    have hlast : s.library.inLastPhase = true ∧ s.library.complete = { slots := slots, op := .idle } := by
      rcases h with ⟨n, r, h, rfl⟩ | ⟨n, h, rfl⟩ | ⟨h, rfl⟩
      · exact Library.last_marking h
      · exact Library.last_erasing h
      · exact Library.last_erasingAll h
    rw [State.exec_library_last hlast.1 hi, ← hlast.2]
    rfl

/-! ## A record written and read back (R8, R9, R12, R13) -/

namespace State

theorem run_of_step {M : Host.Core} {s t : M.State} (k : Nat) (h : M.step s = .next t) : M.run (k + 1) s = M.run k t := by
  simp only [Host.Core.run, h]

/-- The state with another queue before it. -/
def withQueue (queue : List Instr) (s : State) : State := { s with pending := queue }

theorem run_front {s t : State} {c : Instr} {rest : List Instr} (k : Nat) (hp : s.pending = c :: rest)
    (h : exec c (s.withQueue rest) = .next t) : core.run (k + 1) s = core.run k t := by
  have hstep : core.step s = .next t := by
    change step s = _
    rw [step, hp]
    exact h
  exact run_of_step k hstep

/-- The state as a record is programmed into its slot, the service port's frame being taken. -/
def writing (n : Fin 16) (r : Program) (ph : WritePhase) (s : State) : State :=
  (s.mapLibrary fun l => { slots := l.slots.set n none, op := .writing n ph r }).mapPort .service PortRec.becomePending

/-- The state as the record is stored. -/
def stored (n : Fin 16) (r : Program) (s : State) : State := (s.writing n r .marking).completeLibrary

variable {s : State} (n : Fin 16) (r : Program)

theorem stored_library : (s.stored n r).library = { slots := (s.library.slots.set n none).set n (some r), op := .idle } := rfl

theorem stored_slot (m : Fin 16) : (s.stored n r).library.slots[m] = if m = n then some r else s.library.slots[m] := by
  rw [stored_library]
  by_cases h : m = n
  · subst h; simp
  · have hne : n.val ≠ m.val := fun e => h (Fin.ext e.symm)
    simp [h, hne]

/-- No port but the service port is PENDING after the completion that was not so before. -/
theorem stored_accepts {p : Port} (ha : s.Accepts p) : (s.stored n r).Accepts p := by
  cases p with
  | bay k => exact ha
  | service => exact nofun

/-- WRITE_RECIPE and its three phase ends leave the record in its slot, beside an answered service port. -/
theorem run_write {slot : Byte} {record : List Byte} {rest : List Instr} (k : Nat) (ha : s.Accepts .service)
    (hslot : slot.toNat = n.val) (hrecord : parseProgram record = some r)
    (hp : s.pending = .writeRecipe .service slot record :: .libraryPhaseEnd :: .libraryPhaseEnd :: .libraryPhaseEnd :: rest) :
    core.run (k + 4) s = core.run k ((s.withQueue rest).stored n r.normalize) := by
  have hlen : record.length ≤ 107 := by
    obtain ⟨⟨-, -, -, hsteps, -⟩, hbytes⟩ := parseProgram_some hrecord
    rw [← hbytes, Program.bytes_length]
    omega
  have hwrite (q : List Instr) : exec (.writeRecipe .service slot record) (s.withQueue q) =
      .next ((s.withQueue q).writing n r.normalize .erasing) :=
    (exec_writeRecipe (s := s.withQueue q) slot record ha hlen).trans
      (congrArg Host.Outcome.next (takeWrite_stored .service hslot hrecord))
  have herased (q : List Instr) : exec .libraryPhaseEnd ((s.withQueue q).writing n r.normalize .erasing) =
      .next ((s.withQueue q).writing n r.normalize .programming) := exec_libraryPhaseEnd_next rfl
  have hprogrammed (q : List Instr) : exec .libraryPhaseEnd ((s.withQueue q).writing n r.normalize .programming) =
      .next ((s.withQueue q).writing n r.normalize .marking) := exec_libraryPhaseEnd_next rfl
  have hmarked : exec .libraryPhaseEnd ((s.withQueue rest).writing n r.normalize .marking) =
      .next ((s.withQueue rest).stored n r.normalize) := exec_library_last rfl (List.mem_cons_self ..)
  rw [run_front (k + 3) hp (hwrite _), run_front (k + 2) rfl (herased (.libraryPhaseEnd :: .libraryPhaseEnd :: rest)),
    run_front (k + 1) rfl (hprogrammed (.libraryPhaseEnd :: rest)), run_front k rfl hmarked]

end State

/-- Settles O16. -/
theorem aWrittenRecipeReadsBackNormalized : Obligations.AWrittenRecipeReadsBackNormalized := by
  unfold Obligations.AWrittenRecipeReadsBackNormalized
  intro slot n record r p rest s hservice ha hslot hrecord hpending
  let t := (s.withQueue rest).stored n r.normalize
  have hstored : t.library.slots[n] = some r.normalize := by
    change ((s.withQueue rest).stored n r.normalize).library.slots[n] = _
    rw [State.stored_slot, if_pos rfl]
  have hread : exec (.readRecipe p slot) t = .next (t.replyWith p r.normalize.bytes) :=
    State.exec_readRecipe_stored (State.stored_accepts (s := s.withQueue rest) n _ ha) (Library.lookup_stored hslot rfl hstored)
  have hothers := State.mapPort_others t p (PortRec.answer .ok r.normalize.bytes)
  have hlibrary : (t.replyWith p r.normalize.bytes).library = t.library := (congrArg State.library hothers :)
  refine ⟨t.replyWith p r.normalize.bytes, ?run, (congrArg State.pending hothers :), ?reply, ?slot, congrArg Library.op hlibrary,
    fun m hm => ?other⟩
  case run =>
    rw [State.run_write n r 1 hservice hslot hrecord hpending]
    exact State.run_front 0 rfl hread
  case reply => rw [State.replyWith_port, if_pos rfl]; rfl
  case slot => rw [hlibrary, hstored]
  case other =>
    rw [hlibrary]
    change ((s.withQueue rest).stored n r.normalize).library.slots[m] = _
    rw [State.stored_slot, if_neg hm]
    rfl

end Sys2Proof.Machine

/-!
PROOFS. The bay commands (R14, R19, R20, R37 to R39): each in the states that take it, and WRONG_STATE in every other.
-/

namespace Sys2Proof.Machine

namespace State

variable {s : State} {o : Origin}

/-! ## The sequencer's answer -/

section

variable {allowed : BayState → Bool} {p : Port} {k : Bay} {act : State → State}

theorem whenState_taken (h : allowed (s.bay k).state = true) : s.whenState allowed p k act = (act s).settle.reply p .ok := if_pos h

theorem whenState_refused (h : allowed (s.bay k).state = false) : s.whenState allowed p k act = s.reply p .wrongState :=
  if_neg (by rw [h]; decide)

end

/-! ## The rows behind the port's checks -/

section

variable (ha : s.Accepts o.port) (ho : o.inRange = true)

include ha ho

theorem exec_bayCommand {c : Command} {params : List Byte} {n : Nat} (act : Bay → State → State) (hb : c.group = .bay)
    (hl : c.operandLength = .exactly n) (hn : params.length = n) (hs : n + 1 ≤ Params.maxL) :
    s.bayCommand o c params act = act o.bay s := bayCommand_of_passes act ha (Command.passes_bay o hb hl hn hs ho)

theorem exec_loadRecipe (slot : Byte) (water : Word16) :
    exec (.loadRecipe o slot water) s = .next (s.loadFromSlot o.port slot water.toNat o.bay) :=
  congrArg Host.Outcome.next (exec_bayCommand ha ho _ rfl rfl rfl (by decide))

theorem exec_loadProgram (water : Word16) {record : List Byte} (h : (parseProgram record).isSome = true) :
    exec (.loadProgram o water record) s = .next (s.loadInline o.port water.toNat record o.bay) := by
  have hlen : record.length ≤ 100 := by
    obtain ⟨r, hr⟩ := Option.isSome_iff_exists.mp h
    obtain ⟨⟨-, -, -, hsteps, -⟩, hbytes⟩ := parseProgram_some hr
    rw [← hbytes, Program.bytes_length]
    omega
  exact congrArg Host.Outcome.next (bayCommand_of_passes _ ha (Command.passes_loadProgram o water record ho hlen h))

theorem exec_start : exec (.start o) s = .next (s.whenState (· = .loaded) o.port o.bay (startBay o.bay)) :=
  congrArg Host.Outcome.next (exec_bayCommand ha ho _ rfl rfl rfl (by decide))

theorem exec_abort : exec (.abort o) s = .next (s.whenState BayState.abortable o.port o.bay (abortBay o.bay)) :=
  congrArg Host.Outcome.next (exec_bayCommand ha ho _ rfl rfl rfl (by decide))

theorem exec_skipStep : exec (.skipStep o) s = .next (s.whenState BayState.skippable o.port o.bay (skipBay o.bay)) :=
  congrArg Host.Outcome.next (exec_bayCommand ha ho _ rfl rfl rfl (by decide))

theorem exec_clear : exec (.clear o) s = .next (s.whenState BayState.clearable o.port o.bay (clearBay o.bay)) :=
  congrArg Host.Outcome.next (exec_bayCommand ha ho _ rfl rfl rfl (by decide))

end

/-! ## Loads (R14, R19, R142) -/

section

variable {k : Bay}

theorem loadFromSlot_wrongState (p : Port) (slot : Byte) (water : Nat) (h : (s.bay k).state ≠ .idle) :
    s.loadFromSlot p slot water k = s.reply p .wrongState := if_neg h

theorem loadFromSlot_refused (p : Port) {slot : Byte} (water : Nat) {st : Status} (h : (s.bay k).state = .idle)
    (hst : s.library.lookup slot = .error st) : s.loadFromSlot p slot water k = s.reply p st := by
  rw [loadFromSlot, if_pos h, hst]

theorem loadFromSlot_taken (p : Port) {slot : Byte} {n : Fin 16} (water : Nat) {r : Program} (h : (s.bay k).state = .idle)
    (hslot : slot.toNat = n.val) (hr : s.library.lookup slot = .ok r) :
    s.loadFromSlot p slot water k = (s.loadBay k r (.slot n) water).reply p .ok := by
  rw [loadFromSlot, if_pos h, hr, slotOfByte_eq hslot]

theorem loadInline_wrongState (p : Port) (water : Nat) {record : List Byte} (h : (s.bay k).state ≠ .idle)
    (hr : parseProgram record ≠ none) : s.loadInline p water record k = s.reply p .wrongState := by
  obtain ⟨r, hr⟩ := Option.ne_none_iff_exists'.mp hr
  rw [loadInline, hr]
  exact whenState_refused (decide_eq_false h)

theorem loadInline_taken (p : Port) (water : Nat) {record : List Byte} {r : Program} (hn : s.NothingOwed)
    (h : (s.bay k).state = .idle) (hr : parseProgram record = some r) :
    s.loadInline p water record k = (s.loadBay k r.normalize .inlined water).reply p .ok := by
  have howed : (s.loadBay k r.normalize .inlined water).NothingOwed := hn
  rw [loadInline, hr]
  change s.whenState _ p k _ = _
  rw [whenState_taken (decide_eq_true h), settle_of_not_owed _ howed]

/-- A load leaves fan and flap at rest (R25). -/
theorem loadBay_air (r : Program) (src : Source) (water : Nat) :
    ((s.loadBay k r src water).air k).fanLevel = 0 ∧ ((s.loadBay k r src water).air k).vent = false := by
  rw [(loadBay_onlyBay s k r src water).air, loadBay_bay]
  exact ⟨rfl, rfl⟩

theorem loadBay_est (r : Program) (src : Source) (water : Word16) :
    (s.loadBay k r src water.toNat).est.get k = { m := min 8000 water.toNat * 1000, window := [], valid := false } := by
  have hm : clampInt 0 8000 (water.toNat : Int) * 1000 = ((min 8000 water.toNat : Nat) : Int) * 1000 := by
    rw [clampInt_eq (by decide)]
    omega
  change (s.est.modify k _).get k = _
  rw [PerBay.get_modify, if_pos rfl, hm]

end

end State

/-- Settles O21. -/
theorem aLoadFillsTheBayOrChangesNothing : Obligations.ALoadFillsTheBayOrChangesNothing := by
  unfold Obligations.ALoadFillsTheBayOrChangesNothing
  refine ⟨fun o water i r src s ha ho hn hidle hload => ⟨s.loadBay o.bay r src water.toNat, ?_,
    State.loadBay_onlyBay .., State.loadBay_bay .., State.loadBay_est .., State.loadBay_air ..⟩,
    fun o slot water s ha ho hidle => ?_⟩
  · rcases hload with ⟨record, q, rfl, hrecord, rfl, rfl⟩ | ⟨slot, n, rfl, hslot, hfree, hstored, rfl⟩
    · rw [State.exec_loadProgram ha ho water (by rw [hrecord]; rfl), State.loadInline_taken _ _ hn hidle hrecord]
    · rw [State.exec_loadRecipe ha ho slot water,
        State.loadFromSlot_taken _ _ hidle hslot (Library.lookup_stored hslot hfree hstored)]
  · have refused {st : Status} (h : s.library.lookup slot = .error st) :
        exec (.loadRecipe o slot water) s = .next (s.reply o.port st) := by
      rw [State.exec_loadRecipe ha ho slot water, State.loadFromSlot_refused _ _ hidle h]
    exact ⟨fun h => refused (s.library.lookup_out_of_range h), fun n hslot =>
      ⟨fun hbusy => refused (Library.lookup_busy hslot hbusy), fun hfree hempty => refused (Library.lookup_empty hslot hfree hempty)⟩⟩

/-- Settles O22: the command's table in each of its states. -/
theorem aBayCommandOutsideItsStatesChangesNothing : Obligations.ABayCommandOutsideItsStatesChangesNothing := by
  unfold Obligations.ABayCommandOutsideItsStatesChangesNothing
  intro o s ha ho
  refine ⟨fun h slot water record => ⟨?recipe, fun hr => ?inline⟩, fun h => ?start, fun h => ?abort, fun h => ?skip, fun h => ?clear⟩
  case recipe => rw [State.exec_loadRecipe ha ho, State.loadFromSlot_wrongState _ _ _ h]
  case inline => rw [State.exec_loadProgram ha ho water (Option.isSome_iff_ne_none.mpr hr), State.loadInline_wrongState _ _ h hr]
  case start => rw [State.exec_start ha ho, State.whenState_refused (decide_eq_false h)]
  all_goals simp only [List.mem_cons, List.not_mem_nil, or_false] at h
  case abort =>
    rw [State.exec_abort ha ho, State.whenState_refused]
    rcases h with h | h | h <;> rw [h] <;> rfl
  case skip =>
    rw [State.exec_skipStep ha ho, State.whenState_refused]
    rcases h with h | h | h | h <;> rw [h] <;> rfl
  case clear =>
    rw [State.exec_clear ha ho, State.whenState_refused]
    rcases h with h | h | h | h | h <;> rw [h] <;> rfl

/-- SETTLE, REFRESH and COOL steps ask for nothing (R22, R24). -/
theorem resource_of_plain {kind : StepKind} (h : kind ∈ [StepKind.settle, .refresh, .cool]) : kind.resource = none := by
  simp only [List.mem_cons, List.not_mem_nil, or_false] at h
  rcases h with rfl | rfl | rfl <;> rfl

/-- The resource of a STEAM or DRY step, and the entry it is asked for with (R22). -/
theorem resource_of_plant {kind : StepKind} {boost : Bool} (h : kind = .steam ∨ kind = .dry) : ∃ q, kind.resource = some q ∧
    (if kind = .steam then Entry.fresh .steam false else Entry.fresh .dry boost) =
      Entry.fresh q (decide (q = .dry) && boost) := by
  rcases h with rfl | rfl
  · exact ⟨.steam, rfl, rfl⟩
  · exact ⟨.dry, rfl, rfl⟩

namespace BayContext

variable {b : BayContext}

theorem fullDuration_of_step {r : StepRecord} (h : b.currentStep = some r) : b.fullDuration = r.duration * 100 := by
  rw [fullDuration, h]
  rfl

theorem setRemaining_of_step (fresh : Bool) {r : StepRecord} (h : b.currentStep = some r) : b.setRemaining fresh =
    { b with stepRemaining := if fresh then r.duration * 100 else b.stepRemaining, limitReached := false } := by
  rw [setRemaining, fullDuration_of_step h]

theorem currentStep_of_program {p : Program} (h : b.program = some p) : b.currentStep = p.steps[b.stepIndex]? := by
  rw [currentStep, h]

theorem stepCount_of_program {p : Program} (h : b.program = some p) : b.stepCount = p.steps.length := by
  rw [stepCount, h]

end BayContext

namespace State

variable {s : State} {k : Bay}

theorem HoldersActive.holdsGrant_eq_false (h : s.HoldersActive) (hs : (s.bay k).state ≠ .active) : s.holdsGrant k = false :=
  Bool.or_eq_false_iff.mpr ⟨h.not_holds hs .steam, h.not_holds hs .dry⟩

/-- ABORT gives everything up (R38). -/
theorem abortBay_letsGo (s : State) (k : Bay) : s.LetsGo (s.abortBay k) k none id := giveUp_letsGo s k BayContext.abort

theorem abortBay_bay (s : State) (k : Bay) : (s.abortBay k).bay k = (s.bay k).abort := giveUp_bay s k

theorem abortBay_owed (s : State) (k : Bay) : (s.abortBay k).arb.evalOwed = (s.arb.evalOwed || s.claims k) := giveUp_owed s k

theorem advance_next {s : State} {k : Bay} (h : (s.bay k).stepIndex + 1 < (s.bay k).stepCount) : s.advance k =
    ((s.mapBay k fun b => { b with stepIndex := b.stepIndex + 1 }).enterStep k true).raiseBay .step k := if_pos h

theorem advance_last {s : State} {k : Bay} (h : (s.bay k).stepCount ≤ (s.bay k).stepIndex + 1) : s.advance k = s.finishBay k :=
  if_neg (Nat.not_lt.mpr h)

/-- The last step is skipped: the request is withdrawn and the bay finishes (R36, R37). -/
theorem withdraw_finish_letsGo (s : State) (k : Bay) :
    s.LetsGo ((s.withdraw k).finishBay k) k none (NoticeSet.addBay .finish k) := by
  have h := finishBay_letsGo (s.withdraw k) k
  rw [withdraw_requests] at h
  exact Entering.letsGo (.inr rfl) h

theorem withdraw_finish_owed (s : State) (k : Bay) :
    ((s.withdraw k).finishBay k).arb.evalOwed = (s.arb.evalOwed || s.claims k) := by
  rw [finishBay_owed, withdraw_owed, withdraw_holdsGrant, claims, Bool.or_assoc]

/-- The request list is one entry shorter, and an evaluation is owed where there was an entry (R38, R62). -/
theorem withdraw_arb (s : State) (k : Bay) : (s.withdraw k).arb = { s.arb with
    requests := s.arb.requests.set k none, evalOwed := s.arb.evalOwed || (s.arb.requests.get k).isSome } := by
  obtain ⟨e, he⟩ := withdraw_eq s k
  have howed := withdraw_owed s k
  rw [he] at howed ⊢
  exact congrArg (fun e => { s.arb with requests := s.arb.requests.set k none, evalOwed := e }) howed

theorem skippable_of_mem {b : BayState} (h : b ∈ [BayState.await, .active, .held]) : b.skippable = true := by
  simp only [List.mem_cons, List.not_mem_nil, or_false] at h
  rcases h with h | h | h <;> rw [h] <;> rfl

theorem abortable_of_mem {b : BayState} (h : b ∈ [BayState.loaded, .await, .active, .held]) : b.abortable = true := by
  simp only [List.mem_cons, List.not_mem_nil, or_false] at h
  rcases h with h | h | h | h <;> rw [h] <;> rfl

theorem clearable_of_mem {b : BayState} (h : b ∈ [BayState.finished, .halted]) : b.clearable = true := by
  simp only [List.mem_cons, List.not_mem_nil, or_false] at h
  rcases h with h | h <;> rw [h] <;> rfl

end State

/-- Settles O24. -/
theorem startEntersTheFirstStep : Obligations.StartEntersTheFirstStep := by
  unfold Obligations.StartEntersTheFirstStep
  intro o r s ha ho holders hloaded hr
  have hexec : exec (.start o) s = .next ((s.enterStep o.bay true).settle.reply o.port .ok) := by
    rw [State.exec_start ha ho, State.whenState_taken (decide_eq_true hloaded)]
    rfl
  have hidle : (s.bay o.bay).state ≠ .active := by rw [hloaded]; nofun
  have hnone := holders.holdsGrant_eq_false hidle
  refine ⟨_, hexec, fun hdoor => ?_, fun hdoor hk => ?_, fun hdoor hk => ?_⟩
  · obtain ⟨hlets, hbay⟩ := s.enterStep_open o.bay true hdoor
    refine hlets.thenSettles (hbay.trans ?_) ((s.enterStep_open_owed o.bay true hdoor).trans (by rw [hnone]))
    rw [BayContext.setRemaining_of_step true hr]
    rfl
  · have hplain := resource_of_plain hk
    obtain ⟨hlets, hbay⟩ := s.enterStep_plain o.bay true r hdoor hr hplain
    refine hlets.thenSettles (hbay.trans ?_) ((s.enterStep_plain_owed o.bay true r hdoor hr hplain).trans (by rw [hnone]))
    rw [BayContext.setRemaining_of_step true hr]
    rfl
  · obtain ⟨q, hq, hentry⟩ := resource_of_plant hk
    have hfree : s.holds o.bay q = false := holders.not_holds hidle q
    obtain ⟨hlets, hbay⟩ := s.enterStep_await o.bay true r q hdoor hr hq hfree
    rw [hentry]
    refine hlets.thenSettles (hbay.trans ?_) ((s.enterStep_await_owed o.bay true r q hdoor hr hq hfree).trans (by simp))
    rw [BayContext.setRemaining_of_step true hr]
    rfl

/-- Settles O25. -/
theorem abortGivesUpEverythingAndGoesToIdle : Obligations.AbortGivesUpEverythingAndGoesToIdle := by
  unfold Obligations.AbortGivesUpEverythingAndGoesToIdle
  intro o s ha ho hstate
  refine ⟨(s.abortBay o.bay).settle, ?_,
    (s.abortBay_letsGo o.bay).thenSettles (s.abortBay_bay o.bay) (s.abortBay_owed o.bay)⟩
  rw [State.exec_abort ha ho, State.whenState_taken (State.abortable_of_mem hstate)]

/-- Settles O26. -/
theorem skipStepAdvancesOrFinishes : Obligations.SkipStepAdvancesOrFinishes := by
  unfold Obligations.SkipStepAdvancesOrFinishes
  intro o p s ha ho hstate hp
  have hexec : exec (.skipStep o) s = .next (((s.withdraw o.bay).advance o.bay).settle.reply o.port .ok) := by
    rw [State.exec_skipStep ha ho, State.whenState_taken (State.skippable_of_mem hstate)]
    rfl
  have hcount : ((s.withdraw o.bay).bay o.bay).stepCount = p.steps.length := BayContext.stepCount_of_program (b := s.bay o.bay) hp
  refine ⟨fun hlast => ?_, fun hnext => ⟨?_, s.withdraw_arb o.bay, rfl⟩⟩
  · rw [State.advance_last (s := s.withdraw o.bay) (by rw [hcount]; exact hlast)] at hexec
    refine ⟨_, hexec, (s.withdraw_finish_letsGo o.bay).thenSettles ?_ (s.withdraw_finish_owed o.bay)⟩
    rw [State.finishBay_bay]
    rfl
  · rw [State.advance_next (s := s.withdraw o.bay) (by rw [hcount]; exact hnext)] at hexec
    exact hexec

/-- Settles O27. -/
theorem clearEmptiesTheBayAndKeepsItsOutcome : Obligations.ClearEmptiesTheBayAndKeepsItsOutcome := by
  unfold Obligations.ClearEmptiesTheBayAndKeepsItsOutcome
  intro o s ha ho hn hstate
  refine ⟨s.clearBay o.bay, ?_, s.mapBay_handDemands_onlyBay o.bay BayContext.clear, rfl,
    s.mapBay_handDemands_bay o.bay BayContext.clear⟩
  have howed : (s.clearBay o.bay).NothingOwed := hn
  rw [State.exec_clear ha ho, State.whenState_taken (State.clearable_of_mem hstate), State.settle_of_not_owed _ howed]

end Sys2Proof.Machine

/-!
PROOFS. The entry of a step (R21 to R24), the bay's own timers (R26, R31, R35, R45) and the door (R40 to R42).
-/

namespace Sys2Proof.Machine

namespace State

variable {s : State} {k : Bay}

/-! ## Carry-over (R23) -/

theorem carryOver_none (r : StepRecord) (h : s.arb.reheatOf k = none) : s.carryOver k r = s := by
  unfold carryOver
  rw [h]

theorem carryOver_same {r : StepRecord} {before : Reheat} (h : s.arb.reheatOf k = some before)
    (hr : carriedReheat r.boost before = before) : s.carryOver k r = s := by
  unfold carryOver
  rw [h]
  exact if_pos hr

theorem carryOver_changed {r : StepRecord} {before : Reheat} (h : s.arb.reheatOf k = some before)
    (hr : carriedReheat r.boost before ≠ before) :
    s.carryOver k r = (s.setReheat k (carriedReheat r.boost before)).mapArb Arbiter.owe := by
  unfold carryOver
  rw [h]
  exact if_neg hr

/-- A change of status by carry-over never turns a reheater on. -/
theorem carriedReheat_ne_on {boost : Bool} {before : Reheat} (h : carriedReheat boost before ≠ before) :
    carriedReheat boost before ≠ .on := by
  unfold carriedReheat at h ⊢
  cases boost <;> cases before <;> simp_all

/-- Carry-over does not ask for the step remaining. -/
theorem carryOver_mapBay (s : State) (k : Bay) (r : StepRecord) (f : BayContext → BayContext) :
    (s.mapBay k f).carryOver k r = (s.carryOver k r).mapBay k f := by
  cases h : s.arb.reheatOf k with
  | none => rw [carryOver_none r h, carryOver_none (s := s.mapBay k f) r h]
  | some before =>
    by_cases hr : carriedReheat r.boost before = before
    · rw [carryOver_same h hr, carryOver_same (s := s.mapBay k f) h hr]
    · rw [carryOver_changed h hr, carryOver_changed (s := s.mapBay k f) h hr, setReheat_mapBay (carriedReheat_ne_on hr)]
      rfl

/-- What a change of bay `k`'s reheat status leaves: the holders, and all but that bay's reheater. -/
structure KeepsHolders (s w : State) (k : Bay) : Prop where
  stable   : w.stable = s.stable
  bays     : w.bays = s.bays
  ports    : w.ports = s.ports
  steam    : w.steam = s.steam
  requests : w.arb.requests = s.arb.requests
  ring     : w.arb.ring = s.arb.ring
  row      : w.arb.steamRow = s.arb.steamRow
  slotA    : w.arb.slotA.map (·.bay) = s.arb.slotA.map (·.bay)
  slotB    : w.arb.slotB.map (·.bay) = s.arb.slotB.map (·.bay)
  dry      : { w.dry with air := s.dry.air } = s.dry
  others   : ∀ j, j ≠ k → w.air j = s.air j
  draw     : s.arb.committed = s.arb.draw s.dry.comp → w.arb.committed = w.arb.draw s.dry.comp

theorem KeepsHolders.refl (s : State) (k : Bay) : s.KeepsHolders s k :=
  ⟨rfl, rfl, rfl, rfl, rfl, rfl, rfl, rfl, rfl, rfl, fun _ _ => rfl, id⟩

theorem setReheat_keepsHolders (s : State) (k : Bay) (r : Reheat) : s.KeepsHolders ((s.setReheat k r).mapArb Arbiter.owe) k := by
  obtain ⟨hblocks, harb, hdry, hothers, -⟩ := setReheat_spec s k r
  refine ⟨(mapArb_stable _ rfl).trans (setReheat_stable s k r), by rw [hblocks]; rfl, by rw [hblocks]; rfl, by rw [hblocks]; rfl,
    ?_, ?_, ?_, ?_, ?_, hdry, hothers, fun _ => ?_⟩
  · rw [mapArb_arb, harb]; rfl
  · rw [mapArb_arb, harb]; rfl
  · rw [mapArb_arb, harb]; rfl
  · rw [mapArb_arb, Arbiter.owe, setReheat_slotA, slotWith_bay]
  · rw [mapArb_arb, Arbiter.owe, setReheat_slotB, slotWith_bay]
  · exact congrArg Arbiter.committed harb

theorem carryOver_keepsHolders (s : State) (k : Bay) (r : StepRecord) : s.KeepsHolders (s.carryOver k r) k := by
  cases h : s.arb.reheatOf k with
  | none => rw [carryOver_none r h]; exact .refl s k
  | some before =>
    by_cases hr : carriedReheat r.boost before = before
    · rw [carryOver_same h hr]; exact .refl s k
    · rw [carryOver_changed h hr]; exact setReheat_keepsHolders s k _

/-- The status after a carry-over, the reheater with it, and the evaluation that a change calls for (R23, R62). -/
theorem carryOver_reheat {r : StepRecord} {before : Reheat} (h : s.arb.reheatOf k = some before) :
    (s.carryOver k r).arb.reheatOf k = some (carriedReheat r.boost before) ∧
    (∀ j, j ≠ k → (s.carryOver k r).arb.reheatOf j = s.arb.reheatOf j) ∧
    (s.carryOver k r).air k = { s.air k with
      reheater := decide (carriedReheat r.boost before = before) && (s.air k).reheater } ∧
    (s.carryOver k r).arb.evalOwed = (s.arb.evalOwed || decide (carriedReheat r.boost before ≠ before)) := by
  by_cases hr : carriedReheat r.boost before = before
  · rw [carryOver_same h hr]
    simp [hr, h]
  · have hself : (s.setReheat k (carriedReheat r.boost before)).arb.reheatOf k = some (carriedReheat r.boost before) := by
      rw [setReheat_reheatOf_self, h]
      rfl
    obtain ⟨-, -, -, -, hair⟩ := setReheat_spec s k (carriedReheat r.boost before)
    rw [hself, if_neg (fun hon => carriedReheat_ne_on hr (Option.some.inj hon.1))] at hair
    rw [carryOver_changed h hr]
    refine ⟨hself, fun j hj => setReheat_reheatOf_other s hj _, hair.trans ?_, ?_⟩
    · simp [hr]
    · simp [Arbiter.owe, hr]

/-- A step that carries its resource over: the reheat judged anew, then the bay's own change (R22, R23). -/
theorem enterStep_carries (fresh : Bool) {r : StepRecord} {q : Resource} (hdoor : (s.bay k).door = .shut)
    (hr : (s.bay k).currentStep = some r) (hk : r.kind.resource = some q) (hh : s.holds k q = true) :
    s.enterStep k fresh =
      ((s.carryOver k r).mapBay k (BayContext.goto .active ∘ BayContext.setRemaining fresh)).handDemands k := by
  rw [enterStep_carried s k fresh r q hdoor hr hk hh, carryOver_mapBay, activate, mapBay_mapBay]

/-- A bay without a DRY slot has no reheat to judge. -/
theorem reheatOf_of_not_holdsDry (h : s.arb.holdsDry k = false) : s.arb.reheatOf k = none := by
  obtain ⟨hA, hB⟩ := Bool.or_eq_false_iff.mp h
  rw [Arbiter.reheatOf, hA, hB]
  rfl

theorem mapBay_handDemands_air (w : State) (k : Bay) (f : BayContext → BayContext) :
    ((w.mapBay k f).handDemands k).air k = demanded (((w.mapBay k f).handDemands k).bay k) (w.air k) :=
  (w.mapBay_handDemands_onlyBay k f).air

end State

/-- Settles O23: the door, the kind of the step and the grant held decide which entry it is. -/
theorem aStepIsEnteredByDoorKindAndGrant : Obligations.AStepIsEnteredByDoorKindAndGrant := by
  unfold Obligations.AStepIsEnteredByDoorKindAndGrant
  refine ⟨fun b => ⟨fun h => ?noProgram, fun p h => BayContext.currentStep_of_program h⟩, fun r => rfl, ?entry⟩
  case noProgram => rw [BayContext.currentStep, h]
  intro s k fresh r rem hr hrem
  subst hrem
  have hset := BayContext.setRemaining_of_step fresh hr
  refine ⟨fun hdoor => ?opened, fun hdoor => ⟨fun hk => ?plain, fun hk => ?carried, fun hk hfree => ?steam, fun hk hfree => ?dry⟩⟩
  case opened =>
    obtain ⟨hlets, hbay⟩ := s.enterStep_open k fresh hdoor
    exact ⟨hlets, s.enterStep_open_owed k fresh hdoor, hbay.trans (by rw [hset]; rfl)⟩
  case plain =>
    have hplain := resource_of_plain hk
    obtain ⟨hlets, hbay⟩ := s.enterStep_plain k fresh r hdoor hr hplain
    exact ⟨hlets, s.enterStep_plain_owed k fresh r hdoor hr hplain, hbay.trans (by rw [hset]; rfl)⟩
  case carried =>
    obtain ⟨q, hq, hholds⟩ : ∃ q, r.kind.resource = some q ∧ s.holds k q = true := by
      rcases hk with ⟨hk, hh⟩ | ⟨hk, hh⟩
      · exact ⟨.steam, by rw [hk]; rfl, hh⟩
      · exact ⟨.dry, by rw [hk]; rfl, hh⟩
    rw [State.enterStep_carries fresh hdoor hr hq hholds]
    have hcarry := State.carryOver_keepsHolders s k r
    have hbays (j : Bay) : (s.carryOver k r).bay j = s.bay j := congrArg (PerBay.get · j) hcarry.bays
    have hports (p : Port) : (s.carryOver k r).port p = s.port p := by
      cases p <;> simp only [State.port, hcarry.ports]
    generalize hw : s.carryOver k r = w at hcarry hbays hports ⊢
    generalize hg : BayContext.goto .active ∘ BayContext.setRemaining fresh = g
    have honly := State.mapBay_handDemands_onlyBay w k g
    have hair := w.mapBay_handDemands_air k g
    have hgoto : ((w.mapBay k g).handDemands k).bay k = { s.bay k with
        state := .active
        stepRemaining := if fresh then r.duration * 100 else (s.bay k).stepRemaining
        limitReached := false
        waitReached := false } := by
      rw [State.mapBay_handDemands_bay, hbays, ← hg, Function.comp, hset]
      rfl
    have hdry : { ((w.mapBay k g).handDemands k).dry with air := s.dry.air } = s.dry := hcarry.dry
    have holdsNone (h : s.arb.holdsDry k = false) : w = s := hw ▸ State.carryOver_none r (State.reheatOf_of_not_holdsDry h)
    refine ⟨hgoto, hcarry.requests, hcarry.ring, hcarry.row, hcarry.steam, ?_, hdry, fun j hj => ?_, hcarry.draw, fun _ hnot => ?_,
      hcarry.slotA, hcarry.slotB, fun _ hnot => ?_, fun before after hkind hbefore hafter => ?_, hports⟩
    · exact ((State.handDemands_stable ..).trans (State.mapBay_stable ..)).trans hcarry.stable
    · exact ⟨((honly.others j hj).1).trans (hbays j), ((honly.others j hj).2).trans (hcarry.others j hj)⟩
    · obtain rfl := holdsNone hnot
      exact ⟨rfl, rfl, hair⟩
    · obtain rfl := holdsNone hnot
      rfl
    · obtain ⟨hself, hother, hreheater, howed⟩ := State.carryOver_reheat (r := r) hbefore
      obtain rfl : after = State.carriedReheat r.boost before := hafter
      rw [hw] at hself hother hreheater howed
      exact ⟨hself, hair.trans (by rw [hreheater]), hother, howed⟩
  case steam =>
    obtain ⟨hlets, hbay⟩ := s.enterStep_await k fresh r .steam hdoor hr (by rw [hk]; rfl) hfree
    exact ⟨hlets, s.enterStep_await_owed k fresh r .steam hdoor hr (by rw [hk]; rfl) hfree, hbay.trans (by rw [hset]; rfl)⟩
  case dry =>
    obtain ⟨hlets, hbay⟩ := s.enterStep_await k fresh r .dry hdoor hr (by rw [hk]; rfl) hfree
    exact ⟨hlets, s.enterStep_await_owed k fresh r .dry hdoor hr (by rw [hk]; rfl) hfree, hbay.trans (by rw [hset]; rfl)⟩

end Sys2Proof.Machine

/-!
PROOFS. The bay's timed ends (R26, R31, R35, R45), its door (R40 to R42) and its part of a scan (R32 to R34, R44, R46).
-/

namespace Sys2Proof.Machine

namespace State

variable {s : State} {k : Bay}

theorem mapBay_eq_set (s : State) (k : Bay) (f : BayContext → BayContext) :
    s.mapBay k f = { s with bays := s.bays.set k (f (s.bay k)) } := rfl

theorem mapBay_congr {f g : BayContext → BayContext} (h : f (s.bay k) = g (s.bay k)) : s.mapBay k f = s.mapBay k g := by
  rw [mapBay_eq_set, mapBay_eq_set, h]

theorem OnlyBay.not_owed {u : State} {raise : NoticeSet → NoticeSet} (h : s.OnlyBay u k raise) (hn : s.NothingOwed) :
    u.NothingOwed := (congrArg Arbiter.evalOwed h.arb).trans hn

section

variable {p : Program} (hp : (s.bay k).program = some p)

include hp

theorem advance_of_next (h : (s.bay k).stepIndex + 1 < p.steps.length) : s.advance k =
    ((s.mapBay k fun b => { b with stepIndex := b.stepIndex + 1 }).enterStep k true).raiseBay .step k :=
  advance_next (by rwa [BayContext.stepCount_of_program hp])

theorem advance_of_last (h : p.steps.length ≤ (s.bay k).stepIndex + 1) : s.advance k = s.finishBay k :=
  advance_last (by rwa [BayContext.stepCount_of_program hp])

end

end State

/-! ## Wait timeout, purge end and step limit (R26, R31, R35, R45) -/

namespace BayContext

variable {b : BayContext}

theorem judgeUnderdry_of_step (m : Int) {r : StepRecord} (hr : b.currentStep = some r) :
    b.judgeUnderdry m = { b with underdry := b.underdry || decide (r.kind = .dry ∧ r.target * 1000 < m) } := by
  unfold judgeUnderdry
  rw [hr]
  by_cases h : r.kind = .dry ∧ r.target * 1000 < m
  · simp [h]
  · simp only [h, if_false, decide_false, Bool.or_false]

theorem goto_halt (fault : BayFault) (h : fault ≠ .overheat) : b.halt fault = { b with
    state := .halted, outcome := .halted, fault := some fault, overheatRun := 0, limitReached := false, waitReached := false } := by
  rw [halt, if_neg h]
  rfl

end BayContext

namespace State

variable {s : State} {k : Bay}

theorem waitTimeout_due (hs : (s.bay k).state = .await) (hw : (s.bay k).waitReached = true) :
    s.waitTimeout k = (s.haltBay k .waitTimeout).settle := if_pos (by rw [BayContext.waitDue, hs, hw]; rfl)

theorem purgeEnd_due (hs : (s.bay k).state = .halted) (hp : (s.bay k).purgeRemaining = some 0) : s.purgeEnd k = s.endPurge k :=
  if_pos (by rw [BayContext.purgeDue, hs, hp]; rfl)

theorem stepEndsOnLimit_due (hs : (s.bay k).state = .active) (hl : (s.bay k).limitReached = true) :
    s.stepEndsOnLimit k = (s.endOnLimit k).settle := if_pos (by rw [BayContext.limitDue, hs, hl]; rfl)

/-- A DRY step is judged on M before its bay goes on (R31). -/
theorem endOnLimit_eq {r : StepRecord} (hr : (s.bay k).currentStep = some r) : s.endOnLimit k = (s.mapBay k fun b =>
    { b with underdry := (s.bay k).underdry || decide (r.kind = .dry ∧ r.target * 1000 < (s.est.get k).m) }).advance k :=
  congrArg (advance k) (mapBay_congr (BayContext.judgeUnderdry_of_step _ hr))

end State

/-- Settles O28. -/
theorem theBayTimersEndWaitPurgeAndStep : Obligations.TheBayTimersEndWaitPurgeAndStep := by
  unfold Obligations.TheBayTimersEndWaitPurgeAndStep
  refine ⟨fun k s => ⟨fun hs hw => ⟨_, congrArg Host.Outcome.next (State.waitTimeout_due hs hw), ?wait⟩,
    fun hs hp => ⟨_, congrArg Host.Outcome.next (State.purgeEnd_due hs hp), ?purge⟩⟩,
    fun k p r mark s hs hl hp hr hmark => ⟨fun hlast => ⟨_, congrArg Host.Outcome.next (State.stepEndsOnLimit_due hs hl), ?finish⟩,
      fun hnext => ?advance⟩, fun k f s => s.mapBay_eq_set k f, fun b r => ?demands⟩
  case wait =>
    have hbay := (s.haltBay_bay k .waitTimeout).trans (BayContext.goto_halt .waitTimeout (by decide))
    exact (s.haltBay_letsGo k .waitTimeout).thenSettles hbay (s.haltBay_owed k .waitTimeout)
  case purge => exact ⟨s.mapBay_handDemands_onlyBay k _, rfl, s.mapBay_handDemands_bay k _⟩
  case finish =>
    rw [State.endOnLimit_eq hr, ← hmark]
    generalize ht : (s.mapBay k fun b => { b with underdry := mark }) = t
    have hbay : t.bay k = { s.bay k with underdry := mark } := by rw [← ht, State.mapBay_bay, if_pos rfl]
    rw [State.advance_of_last (p := p) (by rw [hbay]; exact hp) (by rw [hbay]; exact hlast.ge)]
    have hlets := t.finishBay_letsGo k
    have howed := t.finishBay_owed k
    have hfinish := t.finishBay_bay k
    rw [hbay] at hfinish
    subst ht
    exact hlets.of_mapBay.thenSettles hfinish howed
  case advance =>
    have hbay : (s.mapBay k fun b => { b with underdry := mark }).bay k = { s.bay k with underdry := mark } := by
      rw [State.mapBay_bay, if_pos rfl]
    change Host.Outcome.next (s.stepEndsOnLimit k) = _
    rw [State.stepEndsOnLimit_due hs hl, State.endOnLimit_eq hr, ← hmark,
      State.advance_of_next (p := p) (by rw [hbay]; exact hp) (by rw [hbay]; exact hnext), State.mapBay_mapBay]
    rfl
  case demands =>
    refine ⟨fun hs hr => fanDemand_step b (by simpa using hs) hr, fun hs => ?_, fun hs => demands_rest b hs, fun hs => ventDemand_await b hs,
      fun hs hr => ?_, fun hs => ?_⟩
    · rw [(demands_halted b hs).1]
      simp [Option.isSome_iff_ne_none]
    · rw [ventDemand_active b hs hr, decide_eq_true_eq]
    · rw [(demands_halted b hs).2, Option.isSome_iff_ne_none]

end Sys2Proof.Machine

/-!
PROOFS. The door of a bay (R18, R40 to R42) and the bay's part of a scan complete (R32 to R36, R44, R46, R153).
-/

namespace Sys2Proof.Machine

namespace State

variable {s : State} {k : Bay}

/-! ## The door (R40 to R42) -/

theorem doorOpening_of_shut (h : (s.bay k).door = .shut) : s.doorOpening k = ((s.setDoorInput k true).openDoor k).settle := if_pos h

theorem doorClosing_of_opened (h : (s.bay k).door = .opened) : s.doorClosing k = ((s.setDoorInput k false).closeDoor k).settle :=
  if_pos h

/-- In AWAIT and ACTIVE an opening door takes everything from the bay and holds it (R40). -/
theorem openDoor_treating (h : (s.bay k).state = .await ∨ (s.bay k).state = .active) : s.openDoor k =
    (((((s.mapBay k fun b => { b with door := .opened }).giveUp k).mapBay k (BayContext.goto .held)).handDemands k).raiseBay .door
      k) := by
  have hstate : ((s.mapBay k fun b => { b with door := .opened }).bay k).state = (s.bay k).state := by
    rw [mapBay_bay, if_pos rfl]
  unfold openDoor
  dsimp only
  rw [hstate]
  rcases h with h | h <;> rw [h]

theorem openDoor_idle (h : (s.bay k).state ∈ [BayState.idle, .loaded, .held, .finished, .halted]) : s.openDoor k =
    ((s.mapBay k fun b => { b with door := .opened }).handDemands k).raiseBay .door k := by
  have hstate : ((s.mapBay k fun b => { b with door := .opened }).bay k).state = (s.bay k).state := by
    rw [mapBay_bay, if_pos rfl]
  simp only [List.mem_cons, List.not_mem_nil, or_false] at h
  unfold openDoor
  dsimp only
  rw [hstate]
  rcases h with h | h | h | h | h <;> rw [h]

theorem closeDoor_held (h : (s.bay k).state = .held) : s.closeDoor k =
    ((s.mapBay k fun b => { b with door := .shut }).enterStep k false).raiseBay .door k := by
  have hstate : ((s.mapBay k fun b => { b with door := .shut }).bay k).state = (s.bay k).state := by
    rw [mapBay_bay, if_pos rfl]
  unfold closeDoor
  dsimp only
  rw [hstate, h]

theorem closeDoor_idle (h : (s.bay k).state ≠ .held) : s.closeDoor k =
    ((s.mapBay k fun b => { b with door := .shut }).handDemands k).raiseBay .door k := by
  have hstate : ((s.mapBay k fun b => { b with door := .shut }).bay k).state = (s.bay k).state := by
    rw [mapBay_bay, if_pos rfl]
  unfold closeDoor
  dsimp only
  rw [hstate]
  cases hs : (s.bay k).state with
  | held => exact absurd hs h
  | _ => rfl

/-- The door field alone changes, the demands follow, DOOR is raised. -/
theorem doorField_onlyBay (s : State) (k : Bay) (d : Door) :
    s.OnlyBay (((s.mapBay k fun b => { b with door := d }).handDemands k).raiseBay .door k) k (NoticeSet.addBay .door k) :=
  (s.mapBay_handDemands_onlyBay k _).raise .door

theorem doorField_bay (s : State) (k : Bay) (d : Door) :
    (((s.mapBay k fun b => { b with door := d }).handDemands k).raiseBay .door k).bay k = { s.bay k with door := d } := by
  have := s.mapBay_handDemands_bay k fun b => { b with door := d }
  simpa only [bay, raiseBay_bays] using this

/-- An opening door in AWAIT or ACTIVE (R40). -/
theorem openDoor_letsGo (h : (s.bay k).state = .await ∨ (s.bay k).state = .active) :
    s.LetsGo (s.openDoor k) k none (NoticeSet.addBay .door k) ∧ (s.openDoor k).arb.evalOwed = (s.arb.evalOwed || s.claims k) ∧
    (s.openDoor k).bay k = { s.bay k with
      state := .held, door := .opened, overheatRun := 0, limitReached := false, waitReached := false } := by
  rw [openDoor_treating h]
  generalize ht : (s.mapBay k fun b => { b with door := .opened }) = t
  have hlets := (giveUp_letsGo t k (BayContext.goto .held)).raise .door
  have howed : ((((t.giveUp k).mapBay k (BayContext.goto .held)).handDemands k).raiseBay .door k).arb.evalOwed =
      (t.arb.evalOwed || t.claims k) := by
    rw [raiseBay_arb]
    exact giveUp_owed t k
  have hbay : ((((t.giveUp k).mapBay k (BayContext.goto .held)).handDemands k).raiseBay .door k).bay k = (t.bay k).goto .held := by
    have := giveUp_bay t k (f := BayContext.goto .held)
    simpa only [bay, raiseBay_bays] using this
  have hdoor : t.bay k = { s.bay k with door := .opened } := by rw [← ht, mapBay_bay, if_pos rfl]
  rw [hdoor] at hbay
  subst ht
  exact ⟨hlets.of_mapBay, howed, hbay⟩

end State

/-- Settles O29. -/
theorem aDoorOpeningHoldsTheTreatment : Obligations.ADoorOpeningHoldsTheTreatment := by
  unfold Obligations.ADoorOpeningHoldsTheTreatment
  intro k s base hdoor hbase
  have hexec : exec (.doorOpening k) s = .next (base.openDoor k).settle := by
    subst hbase
    exact congrArg Host.Outcome.next (State.doorOpening_of_shut hdoor)
  have hbay : base.bay k = s.bay k := by rw [hbase]; rfl
  have harb : base.arb = s.arb := by rw [hbase]
  refine ⟨fun hs => ⟨_, hexec, ?held⟩, fun hn hs => ⟨base.openDoor k, ?_, ?idle⟩⟩
  case held =>
    have hclaims : base.claims k = s.claims k := by rw [hbase]; rfl
    obtain ⟨hlets, howed, hopened⟩ := State.openDoor_letsGo (s := base) (k := k) (by rw [hbay]; simpa using hs)
    rw [hbay] at hopened
    rw [hclaims] at howed
    exact hlets.thenSettles hopened howed
  all_goals rw [← hbay] at hs
  all_goals have hopen := State.openDoor_idle hs
  · have hnot : (base.openDoor k).NothingOwed := by
      rw [hopen]
      exact (base.doorField_onlyBay k .opened).not_owed (by rw [State.NothingOwed, harb]; exact hn)
    rw [hexec, State.settle_of_not_owed _ hnot]
  case idle =>
    rw [hopen]
    refine ⟨base.doorField_onlyBay k .opened, ?_, ?_⟩
    · rw [hbase]; rfl
    · rw [base.doorField_bay k .opened, hbay]

/-- Settles O30. -/
theorem aDoorClosingEntersTheStepAgain : Obligations.ADoorClosingEntersTheStepAgain := by
  unfold Obligations.ADoorClosingEntersTheStepAgain
  intro k s base hdoor hbase
  have hexec : exec (.doorClosing k) s = .next (base.closeDoor k).settle := by
    subst hbase
    exact congrArg Host.Outcome.next (State.doorClosing_of_opened hdoor)
  have hbay : base.bay k = s.bay k := by rw [hbase]; rfl
  have harb : base.arb = s.arb := by rw [hbase]
  refine ⟨fun hs => ?held, fun hn hs => ⟨base.closeDoor k, ?_, ?idle⟩⟩
  case held => rw [hexec, State.closeDoor_held (by rw [hbay]; exact hs)]
  all_goals rw [← hbay] at hs
  all_goals have hclose := State.closeDoor_idle hs
  · have hnot : (base.closeDoor k).NothingOwed := by
      rw [hclose]
      exact (base.doorField_onlyBay k .shut).not_owed (by rw [State.NothingOwed, harb]; exact hn)
    rw [hexec, State.settle_of_not_owed _ hnot]
  case idle =>
    rw [hclose]
    refine ⟨base.doorField_onlyBay k .shut, ?_, ?_⟩
    · rw [hbase]; rfl
    · rw [base.doorField_bay k .shut, hbay]

/-! ## A scan complete in the bay (R32 to R36, R44, R46, R153) -/

namespace State

variable {s : State} {k : Bay}

theorem scanBay_not_active (h : (s.bay k).state ≠ .active) : s.scanBay k = s := if_neg h

theorem sensorFaultTest_iff {r : StepRecord} (hr : (s.bay k).currentStep = some r) :
    s.sensorFaultTest k = true ↔ (s.chan (bayChannel k 0)).faulted = true ∧ (r.kind = .steam ∨ r.kind = .dry) := by
  simp [sensorFaultTest, BayContext.currentKind, hr]

theorem scanBay_sensorFault (hs : (s.bay k).state = .active) (h : s.sensorFaultTest k = true) :
    s.scanBay k = s.haltBay k .sensorFault := by
  unfold scanBay
  rw [if_pos hs, if_pos h]

/-- A bay that goes on from the sensor test takes the overheat run of the scan, halts on its fifth, and else meets its end test
(R32, R44). -/
theorem scanBay_goes_on {run : Nat} (hs : (s.bay k).state = .active) (h : s.sensorFaultTest k = false)
    (hrun : (s.bay k).overheatUpdate (s.chan (bayChannel k 0)).faulted (s.chan (bayChannel k 0)).value =
      { s.bay k with overheatRun := run }) :
    s.scanBay k =
      if 5 ≤ run then (s.mapBay k fun b => { b with overheatRun := run }).haltBay k .overheat
      else if s.endTest k then (s.mapBay k fun b => { b with overheatRun := run }).advance k
      else s.mapBay k fun b => { b with overheatRun := run } := by
  have hmap : s.mapBay k (BayContext.overheatUpdate (s.chan (bayChannel k 0)).faulted (s.chan (bayChannel k 0)).value) =
      s.mapBay k fun b => { b with overheatRun := run } := mapBay_congr hrun
  have htest : (s.mapBay k fun b => { b with overheatRun := run }).endTest k = s.endTest k := by
    simp only [endTest, mapBay_bay, if_pos]
    rfl
  unfold scanBay
  rw [if_pos hs, if_neg (by rw [h]; decide)]
  dsimp only
  rw [hmap, htest, mapBay_bay, if_pos rfl]

theorem overheatUpdate_of_program {b : BayContext} {p : Program} (hp : b.program = some p) (faulted : Bool) (inlet : Int) :
    b.overheatUpdate faulted inlet = { b with
      overheatRun := if faulted = false ∧ (p.fabricLimit : Int) * 10 + 50 < inlet then b.overheatRun + 1 else 0 } := by
  simp [BayContext.overheatUpdate, BayContext.overheatThreshold, hp]

theorem endTest_iff {p : Program} {r : StepRecord} (hp : (s.bay k).program = some p) (hr : (s.bay k).currentStep = some r) :
    s.endTest k = true ↔
      r.kind = .dry ∧ (s.est.get k).valid = true ∧ (s.est.get k).m ≤ r.target * 1000 ∧
          (s.est.get k).window.length = 8 ∧ (s.est.get k).window.sum ≤ (p.rateFloor : Int) ∨
        r.kind = .cool ∧ (s.chan (bayChannel k 2)).faulted = false ∧ (s.chan (bayChannel k 2)).value ≤ r.target := by
  unfold endTest
  rw [hp, hr]
  cases hk : r.kind <;> simp [hk, drynessMet, Params.windowSize, and_assoc]

end State

/-- Settles O31. -/
theorem aBayTakesAScanInOrder : Obligations.ABayTakesAScanInOrder := by
  unfold Obligations.ABayTakesAScanInOrder
  intro k p r inlet run s
  refine ⟨rfl, State.scanBay_not_active, fun hs hp hr hinlet hrun => ⟨fun hfault hk => ?sensor, fun hon => ?goesOn⟩,
    fun hp => ⟨State.advance_of_next hp, fun hlast => ?last⟩, fun hp hr => State.endTest_iff hp hr⟩
  case sensor =>
    subst hinlet
    rw [State.scanBay_sensorFault hs ((State.sensorFaultTest_iff hr).mpr ⟨hfault, hk⟩)]
    exact ⟨s.haltBay_letsGo k _, s.haltBay_owed k _, (s.haltBay_bay k _).trans (BayContext.goto_halt _ (by decide))⟩
  case goesOn =>
    subst hinlet
    have hsensor : s.sensorFaultTest k = false := by
      rw [Bool.eq_false_iff, Ne, State.sensorFaultTest_iff hr]
      rintro ⟨hfault, hk⟩
      rcases hon with hclean | hplain
      · rw [hclean] at hfault
        exact Bool.noConfusion hfault
      · rcases hk with hk | hk <;> simp [hk] at hplain
    have hscan := State.scanBay_goes_on hs hsensor (run := run) (by rw [State.overheatUpdate_of_program hp, hrun])
    refine ⟨fun hfive => ?_, fun hfour => ⟨fun htest => ?_, fun htest => ?_⟩⟩
    · rw [hscan, if_pos hfive]
      generalize ht : (s.mapBay k fun b => { b with overheatRun := run }) = t
      have hbay : t.bay k = { s.bay k with overheatRun := run } := by rw [← ht, State.mapBay_bay, if_pos rfl]
      have hlets := t.haltBay_letsGo k .overheat
      have howed := t.haltBay_owed k .overheat
      have hhalted := t.haltBay_bay k .overheat
      rw [hbay] at hhalted
      subst ht
      exact ⟨hlets.of_mapBay, howed, hhalted⟩
    · rw [hscan, if_neg (Nat.not_le.mpr hfour), if_pos htest]
    · rw [hscan, if_neg (Nat.not_le.mpr hfour), if_neg (by rw [htest]; decide)]
  case last =>
    rw [State.advance_of_last hp hlast]
    exact ⟨s.finishBay_letsGo k, s.finishBay_owed k, s.finishBay_bay k⟩

end Sys2Proof.Machine

/-!
PROOFS. A pass of the walk (R63, R64), the terms of the draw and the fit test (R61, R73 to R76), and the grant table's views (R51).
-/

namespace Sys2Proof.Machine.State

variable {s : State}

/-! ## One pass (R63, R64) -/

/-- A bay of the ring whose entry is passed over: it is eligible. -/
def passedOver (s : State) (before : List Bay) : List Bay := before.filter fun j => (s.arb.requests.get j).any (s.eligible j)

/-- An entry that lets the pass go on: eligible, it neither fits nor blocks. -/
def LetsPass (s : State) (j : Bay) : Prop :=
  ∀ f, s.arb.requests.get j = some f → s.eligible j f = true → s.fits f = false ∧ f.blocking = false

/-- The bays before the one at which a pass ends. -/
structure PassesUpTo (s : State) (l acc : List Bay) (k : Bay) (passed before after : List Bay) : Prop where
  split  : l = before ++ k :: after
  passed : passed = acc ++ s.passedOver before
  goesOn : ∀ j ∈ before, s.LetsPass j

theorem PassesUpTo.here (k : Bay) (rest acc : List Bay) : s.PassesUpTo (k :: rest) acc k acc [] rest where
  split := rfl
  passed := (List.append_nil acc).symm
  goesOn := nofun

theorem passedOver_none {j : Bay} {l : List Bay} (h : s.arb.requests.get j = none) : s.passedOver (j :: l) = s.passedOver l := by
  simp [passedOver, h]

theorem passedOver_some {j : Bay} {l : List Bay} {e : Entry} (h : s.arb.requests.get j = some e) : s.passedOver (j :: l) =
    (if s.eligible j e then [j] else []) ++ s.passedOver l := by
  simp only [passedOver, List.filter_cons, h, Option.any_some]
  split <;> rfl

/-- The pass goes on over `j`, which is passed over or not. -/
theorem PassesUpTo.cons {j k : Bay} {l acc acc' passed before after : List Bay} (h : s.PassesUpTo l acc' k passed before after)
    (hacc : acc' ++ s.passedOver before = acc ++ s.passedOver (j :: before)) (hj : s.LetsPass j) :
    s.PassesUpTo (j :: l) acc k passed (j :: before) after where
  split := by rw [h.split]; rfl
  passed := h.passed.trans hacc
  goesOn := List.forall_mem_cons.mpr ⟨hj, h.goesOn⟩

/-- What a pass over the rest of the ring comes to, the bays in `acc` being passed over already. -/
def PassMeans (s : State) (l acc : List Bay) : Pass → Prop
  | .grants k e passed => (s.arb.requests.get k = some e ∧ s.eligible k e = true ∧ s.fits e = true) ∧
    ∃ before after, s.PassesUpTo l acc k passed before after
  | .stalls k e passed => (s.arb.requests.get k = some e ∧ s.eligible k e = true ∧ s.fits e = false ∧ e.blocking = true) ∧
    ∃ before after, s.PassesUpTo l acc k passed before after
  | .ends => ∀ j ∈ l, s.LetsPass j

theorem PassMeans.cons {j : Bay} {l acc acc' : List Bay} {r : Pass} (h : s.PassMeans l acc' r)
    (hacc : ∀ before, acc' ++ s.passedOver before = acc ++ s.passedOver (j :: before)) (hj : s.LetsPass j) :
    s.PassMeans (j :: l) acc r := by
  cases r with
  | grants =>
    obtain ⟨hentry, before, after, hupto⟩ := h
    exact ⟨hentry, j :: before, after, hupto.cons (hacc before) hj⟩
  | stalls =>
    obtain ⟨hentry, before, after, hupto⟩ := h
    exact ⟨hentry, j :: before, after, hupto.cons (hacc before) hj⟩
  | ends => exact List.forall_mem_cons.mpr ⟨hj, h⟩

theorem pass_means (s : State) (l acc : List Bay) : s.PassMeans l acc (s.pass l acc) := by
  induction l generalizing acc with
  | nil => exact nofun
  | cons j rest ih =>
    unfold pass
    cases hentry : s.arb.requests.get j with
    | none =>
      have hj : s.LetsPass j := fun f hf => by rw [hentry] at hf; cases hf
      exact (ih acc).cons (fun before => by rw [passedOver_none hentry]) hj
    | some e =>
      have only {f : Entry} (hf : s.arb.requests.get j = some f) : f = e := by rw [hentry] at hf; exact (Option.some.inj hf).symm
      dsimp only
      by_cases hel : s.eligible j e = true
      · rw [if_pos hel]
        by_cases hfit : s.fits e = true
        · rw [if_pos hfit]
          exact ⟨⟨hentry, hel, hfit⟩, [], rest, .here j rest acc⟩
        · rw [if_neg hfit]
          have hfit : s.fits e = false := Bool.eq_false_iff.mpr hfit
          by_cases hblock : e.blocking = true
          · rw [if_pos hblock]
            exact ⟨⟨hentry, hel, hfit, hblock⟩, [], rest, .here j rest acc⟩
          · rw [if_neg hblock]
            have hj : s.LetsPass j := fun f hf _ => by
              obtain rfl := only hf
              exact ⟨hfit, Bool.eq_false_iff.mpr hblock⟩
            exact (ih (acc ++ [j])).cons (fun before => by rw [passedOver_some hentry, if_pos hel, List.append_assoc]) hj
      · rw [if_neg hel]
        have hj : s.LetsPass j := fun f hf hf' => by
          obtain rfl := only hf
          exact absurd hf' hel
        exact (ih acc).cons (fun before => by rw [passedOver_some hentry, if_neg hel]; rfl) hj

/-- The bays passed over, as they stand in the ring before the bay at which the pass ends. -/
theorem PassesUpTo.explicit {l : List Bay} {k : Bay} {passed before after : List Bay} (h : s.PassesUpTo l [] k passed before after) :
    l = before ++ k :: after ∧ passed = before.filter (fun j => (s.arb.requests.get j).any (s.eligible j)) ∧
      ∀ j ∈ passed, ∀ f, s.arb.requests.get j = some f → s.fits f = false ∧ f.blocking = false := by
  have hpassed : passed = s.passedOver before := h.passed
  refine ⟨h.split, hpassed, fun j hj f hf => ?_⟩
  rw [hpassed, passedOver, List.mem_filter, hf, Option.any_some] at hj
  exact h.goesOn j hj.1 f hf hj.2

end Sys2Proof.Machine.State

namespace Sys2Proof.Machine

/-- Settles O33. -/
theorem aPassGrantsTheFirstEntryThatFits : Obligations.APassGrantsTheFirstEntryThatFits := by
  unfold Obligations.APassGrantsTheFirstEntryThatFits
  refine ⟨fun s l => ?_, fun s => ⟨s.settle_eq, s.evaluate_owed, fun hn => ⟨s.evaluate_ends hn, fun _ _ _ => s.evaluate_grants hn,
    fun k e passed hp => ?_⟩⟩, fun s k e passed => s.grantInPass_spec k e passed⟩
  · have hmeans := s.pass_means l []
    refine ⟨fun k e passed hp => ?_, fun k e passed hp => ?_, fun hp k hk e he hel => ?_⟩
    · rw [hp] at hmeans
      obtain ⟨⟨hentry, hel, hfit⟩, before, after, hupto⟩ := hmeans
      exact ⟨hentry, hel, hfit, before, after, hupto.explicit⟩
    · rw [hp] at hmeans
      obtain ⟨⟨hentry, hel, hfit, hblock⟩, before, after, hupto⟩ := hmeans
      exact ⟨hentry, hel, hfit, hblock, before, after, hupto.explicit⟩
    · rw [hp] at hmeans
      exact hmeans k hk e he hel
  · have hstall := s.evaluate_stalls hn hp
    exact ⟨fun h => by rw [hstall, if_pos h], fun h => by rw [hstall, if_neg (by rw [h]; decide)]⟩

/-! ## The grant table's views and the draw (R51, R61, R73 to R76) -/

theorem slotOn_iff (d : Option DrySlot) : Arbiter.slotOn d = true ↔ ∃ k, d = some { bay := k, reheat := .on } := by
  cases d with
  | none => simp [Arbiter.slotOn]
  | some d =>
    obtain ⟨k, r⟩ := d
    simp [Arbiter.slotOn]

theorem compressorCounted_iff (a : Arbiter) (comp : CompState) :
    a.compressorCounted comp = true ↔ a.slotA ≠ none ∨ a.slotB ≠ none ∨ comp = .running ∨ comp = .tail := by
  simp only [counted_iff, Option.isSome_iff_ne_none]

namespace Arbiter

variable (a : Arbiter) (k : Bay)

theorem holdsSteam_iff : a.holdsSteam k = true ↔ a.steamRow = some k := decide_eq_true_iff

theorem holdsDry_iff : a.holdsDry k = true ↔ a.slotA.map (·.bay) = some k ∨ a.slotB.map (·.bay) = some k := by
  rw [holdsDry, Bool.or_eq_true, State.slotHeldBy_iff, State.slotHeldBy_iff]

theorem dryHolders_eq : a.dryHolders = (if a.slotA = none then 0 else 1) + (if a.slotB = none then 0 else 1) := by
  cases hA : a.slotA <;> cases hB : a.slotB <;> simp [dryHolders, hA, hB]

theorem draw_eq (comp : CompState) : a.draw comp =
    a.settings.baseReserve + (if a.steamRow ≠ none then a.settings.steamDraw else 0) +
    (if a.slotA ≠ none ∨ a.slotB ≠ none ∨ comp = .running ∨ comp = .tail then a.settings.compressorDraw else 0) +
    (if ∃ k, a.slotA = some { bay := k, reheat := .on } then a.settings.reheaterDraw else 0) +
    (if ∃ k, a.slotB = some { bay := k, reheat := .on } then a.settings.reheaterDraw else 0) := by
  simp only [draw, compressorCounted_iff, slotOn_iff, Option.isSome_iff_ne_none]

end Arbiter

namespace State

variable {s : State} {e : Entry}

theorem addedDraw_steam (h : e.resource = .steam) : s.addedDraw e = s.arb.settings.steamDraw := by rw [addedDraw, h]

theorem addedDraw_dry (h : e.resource = .dry) : s.addedDraw e =
    if s.arb.slotA ≠ none ∨ s.arb.slotB ≠ none ∨ s.dry.comp = .running ∨ s.dry.comp = .tail then 0
    else s.arb.settings.compressorDraw := by
  rw [addedDraw, h]
  simp only [compressorCounted_iff]

theorem fitsUnheated_iff : s.fitsUnheated e = true ↔ s.arb.committed -
      ((if ∃ k, s.arb.slotA = some { bay := k, reheat := .on } then s.arb.settings.reheaterDraw else 0) +
       (if ∃ k, s.arb.slotB = some { bay := k, reheat := .on } then s.arb.settings.reheaterDraw else 0)) +
      s.addedDraw e ≤ s.arb.budget := by
  simp only [fitsUnheated, decide_eq_true_eq, slotOn_iff]

end State

/-- Settles O34. -/
theorem theDrawIsTheSumOfItsTermsAndFitAddsOne : Obligations.TheDrawIsTheSumOfItsTermsAndFitAddsOne := by
  unfold Obligations.TheDrawIsTheSumOfItsTermsAndFitAddsOne
  refine ⟨Arbiter.draw_eq, fun s e => ⟨fun h => ?_, fun h => ?_, State.addedDraw_steam, State.addedDraw_dry, State.fitsUnheated_iff⟩,
    fun a k => ⟨a.holdsSteam_iff k, a.holdsDry_iff k, ?_, a.dryHolders_eq, fun slot => ?_⟩⟩
  · rw [State.fits_iff, State.addedDraw_steam h]
  · rw [State.fits_iff, State.addedDraw_dry h]
  · simp only [Arbiter.reheatOf, State.slotHeldBy_iff]
  · simp only [Arbiter.slotWithout, State.slotHeldBy_iff]

end Sys2Proof.Machine

/-!
PROOFS. What an evaluation leaves (R62, R63, R65, R88), and the reheat upgrade that ends one (R87).
-/

namespace Sys2Proof.Machine.State

variable {s t : State} {k : Bay}

/-! ## The ring and the draw along a walk -/

/-- The ring holds every bay and the committed draw is the sum of its terms. -/
def RingAndDraw (s : State) : Prop := s.RingWhole ∧ s.arb.committed = s.arb.draw s.dry.comp

theorem grant_ring (s : State) (k : Bay) (e : Entry) : (s.grant k e).arb.ring = (s.arb.rotate k).ring := by
  have hdecide (u : State) (boost : Bool) : (u.decideReheat k boost).arb.ring = u.arb.ring := by
    unfold decideReheat
    split
    · rw [(setReheat_spec u k .on).2.1]
    · rfl
  have hplace (a : Arbiter) (r : Reheat) : ((a.placeDry k r).rotate k).ring = (a.rotate k).ring := by
    unfold Arbiter.placeDry
    split <;> simp only [rotate_ring]
  unfold grant
  split
  · rw [grantSteam, grantBay_arb, rotate_ring]
    exact rotate_ring ..
  · rw [grantDry, grantBay_arb, hdecide]
    exact (hplace ..).trans (by simp only [rotate_ring]; rfl)

theorem rotate_ringWhole (h : s.RingWhole) : (s.arb.rotate k).ring.Perm [0, 1, 2, 3] := by
  rw [rotate_ring]
  cases s.arb.mode with
  | rotating => exact rotated_ring k h
  | fixed => exact h

theorem RingAndDraw.grantInPass (h : s.RingAndDraw) {e : Entry} (passed : List Bay) (he : s.arb.requests.get k = some e)
    (hel : s.eligible k e = true) : (s.grantInPass k e passed).RingAndDraw := by
  obtain ⟨⟨r, hr⟩, -⟩ := raisePassed_requests s.arb passed
  have hwhole : (s.mapArb (Arbiter.raisePassed passed)).RingWhole := by
    rw [RingWhole, mapArb_arb, hr]
    exact h.1
  refine ⟨?_, (grantInPass_onlyGrants s k e passed he hel).draw h.2⟩
  rw [RingWhole, State.grantInPass, grant_ring]
  exact rotate_ringWhole hwhole

theorem RingAndDraw.shedReheat (h : s.RingAndDraw) (more : State → Bool) (l : List Bay) : (shedReheat more l s).RingAndDraw :=
  have hshrinks := shedReheat_shrinks more l s
  ⟨hshrinks.ring h.1, hshrinks.draw h.2⟩

/-! ## The upgrade (R87) -/

theorem slotWith_on_of_on {d : Option DrySlot} (h : Arbiter.slotOn d = true) : Arbiter.slotOn (Arbiter.slotWith k .on d) = true := by
  unfold Arbiter.slotWith
  split
  · rfl
  · exact h

theorem counted_setReheat (s : State) (k : Bay) (r : Reheat) :
    (s.setReheat k r).arb.compressorCounted (s.setReheat k r).dry.comp = s.arb.compressorCounted s.dry.comp := by
  unfold Arbiter.compressorCounted
  rw [setReheat_comp, setReheat_slotA, setReheat_slotB, isSome_of_bay (slotWith_bay k r _), isSome_of_bay (slotWith_bay k r _)]

theorem setReheat_eligible (s : State) (k : Bay) (r : Reheat) (j : Bay) (e : Entry) :
    (s.setReheat k r).eligible j e = s.eligible j e := by
  have hrow : (s.setReheat k r).arb.steamRow = s.arb.steamRow := by rw [(setReheat_spec s k r).2.1]
  exact eligible_congr s (setReheat_onlyGrants s k r) hrow (by rw [setReheat_slotA, slotWith_bay])
    (by rw [setReheat_slotB, slotWith_bay]) j rfl

theorem setReheat_addedDraw (s : State) (k : Bay) (r : Reheat) (e : Entry) : (s.setReheat k r).addedDraw e = s.addedDraw e := by
  have hset : (s.setReheat k r).arb.settings = s.arb.settings := by rw [(setReheat_spec s k r).2.1]
  unfold addedDraw
  rw [counted_setReheat, hset]

/-- One more reheater draws no less. -/
theorem setReheat_on_committed (h : s.arb.committed = s.arb.draw s.dry.comp) :
    s.arb.committed ≤ (s.setReheat k .on).arb.committed := by
  obtain ⟨-, harb, -⟩ := setReheat_spec s k .on
  have hcommitted : (s.setReheat k .on).arb.committed = (s.setReheat k .on).arb.draw s.dry.comp := congrArg Arbiter.committed harb
  have hcounted := counted_setReheat s k .on
  rw [setReheat_comp] at hcounted
  rw [h, hcommitted]
  refine draw_mono ?_ ?_ (by rw [hcounted]; exact id) ?_ ?_
  · rw [harb]
  · rw [harb]; exact id
  · rw [setReheat_slotA]; exact slotWith_on_of_on
  · rw [setReheat_slotB]; exact slotWith_on_of_on

theorem fits_of_setReheat_on {e : Entry} (h : s.arb.committed = s.arb.draw s.dry.comp) (hf : (s.setReheat k .on).fits e = true) :
    s.fits e = true := by
  have hbudget : (s.setReheat k .on).arb.budget = s.arb.budget := by rw [(setReheat_spec s k .on).2.1]
  have hle := setReheat_on_committed (k := k) h
  rw [fits_iff, setReheat_addedDraw, hbudget] at hf
  exact (fits_iff s e).mpr (by omega)

theorem setReheat_draw (s : State) (k : Bay) (r : Reheat) :
    (s.setReheat k r).arb.committed = (s.setReheat k r).arb.draw (s.setReheat k r).dry.comp := by
  rw [setReheat_comp]
  exact congrArg Arbiter.committed (setReheat_spec s k r).2.1

/-- The upgrade makes no entry eligible and makes none fit. -/
theorem upgradeReheat_grants_nothing (l : List Bay) (h : s.arb.committed = s.arb.draw s.dry.comp) {j : Bay} {e : Entry} :
    (upgradeReheat l s).eligible j e = s.eligible j e ∧ ((upgradeReheat l s).fits e = true → s.fits e = true) := by
  induction l generalizing s with
  | nil => exact ⟨rfl, id⟩
  | cons k rest ih =>
    unfold upgradeReheat
    split
    · obtain ⟨heligible, hfits⟩ := ih (setReheat_draw s k .on)
      exact ⟨heligible.trans (setReheat_eligible s k .on j e), fun hf => fits_of_setReheat_on h (hfits hf)⟩
    · exact ih h

/-! ## The end of a walk (R63, R65, R88) -/

/-- Nothing is left to grant, or the walk has stalled at an entry that would not fit with every reheater off. -/
def WalkEnded (t : State) : Prop :=
  (∀ k e, t.arb.requests.get k = some e → t.eligible k e = true → t.fits e = false) ∨
  ∃ k e, t.arb.requests.get k = some e ∧ t.eligible k e = true ∧ t.fits e = false ∧ e.blocking = true ∧ t.fitsUnheated e = false

theorem upgradeReheat_ended (h : s.RingAndDraw) (hp : s.pass s.arb.ring [] = .ends) : (upgradeReheat s.arb.ring s).WalkEnded := by
  have hmeans := s.pass_means s.arb.ring []
  rw [hp] at hmeans
  refine .inl fun k e he hel => ?_
  obtain ⟨heligible, hfits⟩ := upgradeReheat_grants_nothing s.arb.ring h.2 (j := k) (e := e)
  rw [upgradeReheat_requests] at he
  rw [heligible] at hel
  have hno := (hmeans k (mem_ring h.1 k) e he hel).1
  exact Bool.eq_false_iff.mpr fun hf => by rw [hfits hf] at hno; cases hno

/-- With more passes than entries a walk comes to its end. -/
theorem walk_ended (n : Nat) (hn : s.entries < n) (h : s.RingAndDraw) : (walk n s).WalkEnded := by
  induction n generalizing s with
  | zero => omega
  | succ n ih =>
    have hspec := pass_spec s s.arb.ring []
    unfold walk
    split
    next k e q hp =>
      rw [hp] at hspec
      obtain ⟨-, hk, hel, -⟩ := hspec
      have hfewer := entries_grantInPass (t := s) q hk rfl
      exact ih (by omega) (h.grantInPass q hk hel)
    next hp => exact upgradeReheat_ended h hp
    next k e q hp =>
      rw [hp] at hspec
      obtain ⟨-, hk, hel, hfit, hblock⟩ := hspec
      split
      next =>
        obtain ⟨hrow, hA, hB⟩ := shedReheat_slots s (fun t => !t.fits e) s.arb.ring.reverse
        have hfewer := entries_grantInPass (t := shedReheat (fun t => !t.fits e) s.arb.ring.reverse s) q hk (by simp)
        refine ih (by omega) ((h.shedReheat _ _).grantInPass q (by simpa using hk) ?_)
        rwa [eligible_congr s (shedReheat_onlyGrants ..) hrow hA hB k rfl]
      next hun => exact .inr ⟨k, e, hk, hel, hfit, hblock, Bool.eq_false_iff.mpr hun⟩

theorem evaluate_ended (h : s.RingAndDraw) : s.evaluate.WalkEnded :=
  walk_ended 5 (Nat.lt_succ_of_le (entries_le _)) (s := s.mapArb Arbiter.evaluating) h

theorem reheatFits_iff (s : State) : s.reheatFits = true ↔ s.arb.committed + s.arb.settings.reheaterDraw ≤ s.arb.budget := by
  simp [reheatFits]

end Sys2Proof.Machine.State

namespace Sys2Proof.Machine

/-- Settles O35. -/
theorem anEvaluationLeavesNothingGrantable : Obligations.AnEvaluationLeavesNothingGrantable := by
  unfold Obligations.AnEvaluationLeavesNothingGrantable
  refine ⟨fun s hring hdraw => State.evaluate_ended ⟨hring, hdraw⟩, fun s => ⟨s.evaluate_onlyGrants, s.evaluate_not_owed⟩,
    fun s l pending hl hpending => ?_, fun s more l lit hl hlit => ?_, fun s t k r ht => ?_⟩
  · subst hpending
    exact s.upgradeReheat_take l hl
  · subst hlit
    exact s.shedReheat_take more l hl
  · subst ht
    exact ⟨s.reheatFits_iff, s.setReheat_spec k r⟩

end Sys2Proof.Machine

/-!
PROOFS. The commands of the arbiter (R49, R56 to R58), SET_PLANT (R50, R168, R178), CLEAR_TRIP (R109, R167) and the entries' ages (R54).
-/

namespace Sys2Proof.Machine

/-! ## Byte operands -/

theorem bayOfByte_of_le {b : Byte} (h : 4 ≤ b.toNat) : bayOfByte b = none := dif_neg (by omega)

theorem bayOfByte_eq {b : Byte} {k : Bay} (h : b.toNat = k.val) : bayOfByte b = some k := by
  have hk : k.val < 4 := k.isLt
  rw [bayOfByte, dif_pos (by omega)]
  exact congrArg some (Fin.ext h)

theorem modeOfByte_of_le {b : Byte} (h : 2 ≤ b.toNat) : modeOfByte b = none := by
  have h0 : b ≠ 0 := by rintro rfl; simp at h
  have h1 : b ≠ 1 := by rintro rfl; simp at h
  rw [modeOfByte, if_neg h0, if_neg h1]

theorem modeOfByte_eq {b : Byte} (h : b.toNat ≤ 1) : modeOfByte b = some (if b.toNat = 0 then .rotating else .fixed) := by
  have hb : b = 0 ∨ b = 1 := by
    rcases Nat.le_one_iff_eq_zero_or_eq_one.mp h with h | h
    · exact .inl (BitVec.eq_of_toNat_eq h)
    · exact .inr (BitVec.eq_of_toNat_eq h)
  rcases hb with rfl | rfl <;> rfl

namespace State

variable {s : State}

/-- A change of R62 is evaluated once. -/
theorem oweAndSettle_eq (s : State) : s.oweAndSettle = s.evaluate := by
  rw [oweAndSettle, settle_eq, if_pos (show (s.mapArb Arbiter.owe).arb.evalOwed = true from rfl)]
  exact s.evaluate_owed true

/-! ## COMMISSION, SET_ARBITRATION, PROMOTE, MASK and UNMASK (R49, R56 to R58) -/

section

variable (ha : s.Accepts .service)

include ha

theorem exec_service {c : Command} {params : List Byte} {n : Nat} (act : State → State) (hb : c.group ≠ .bay)
    (hl : c.operandLength = .exactly n) (hn : params.length = n) (hs : n ≤ Params.maxL) :
    s.command .service c params act = act s := command_of_passes act ha (Command.passes_service hb hl hn hs)

theorem exec_commission : exec (.commission .service) s = .next (s.takeCommission .service) :=
  congrArg Host.Outcome.next (exec_service ha _ (by decide) rfl rfl (by decide))

theorem exec_setArbitration (mode : Byte) : exec (.setArbitration .service mode) s = .next (s.takeMode .service mode) :=
  congrArg Host.Outcome.next (exec_service ha _ (by decide) rfl rfl (by decide))

theorem exec_promote (b : Byte) : exec (.promote .service b) s = .next (s.takeOnBay .service b Arbiter.promote) :=
  congrArg Host.Outcome.next (exec_service ha _ (by decide) rfl rfl (by decide))

theorem exec_mask (b : Byte) : exec (.mask .service b) s = .next (s.takeOnBay .service b (setMask true)) :=
  congrArg Host.Outcome.next (exec_service ha _ (by decide) rfl rfl (by decide))

theorem exec_unmask (b : Byte) : exec (.unmask .service b) s = .next (s.takeOnBay .service b (setMask false)) :=
  congrArg Host.Outcome.next (exec_service ha _ (by decide) rfl rfl (by decide))

theorem exec_setPlant {record : List Byte} (h : record.length = 40) :
    exec (.setPlant .service record) s = .next (s.takeSettings .service record) :=
  congrArg Host.Outcome.next (exec_service ha _ (by decide) rfl h (by decide))

theorem exec_clearTrip : exec (.clearTrip .service) s = .next (s.takeClearTrip .service) :=
  congrArg Host.Outcome.next (exec_service ha _ (by decide) rfl rfl (by decide))

end

section

variable (p : Port)

theorem takeCommission_first (h : s.arb.commissioning = .uncommissioned) : s.takeCommission p =
    ({ s with arb := { s.arb with commissioning := .commissioned } } : State).evaluate.reply p .ok := by
  rw [takeCommission, h]
  exact congrArg (reply p .ok) (oweAndSettle_eq _)

theorem takeCommission_again (h : s.arb.commissioning = .commissioned) : s.takeCommission p = s.reply p .wrongState := by
  rw [takeCommission, h]

theorem takeMode_refused {mode : Byte} (h : 2 ≤ mode.toNat) : s.takeMode p mode = s.reply p .badValue := by
  rw [takeMode, modeOfByte_of_le h]

theorem takeMode_taken {mode : Byte} (h : mode.toNat ≤ 1) : s.takeMode p mode =
    ({ s with arb := { s.arb with mode := if mode.toNat = 0 then .rotating else .fixed } } : State).evaluate.reply p .ok := by
  rw [takeMode, modeOfByte_eq h]
  exact congrArg (reply p .ok) (oweAndSettle_eq _)

theorem takeOnBay_refused {b : Byte} (change : Bay → Arbiter → Arbiter) (h : 4 ≤ b.toNat) :
    s.takeOnBay p b change = s.reply p .badValue := by
  rw [takeOnBay, bayOfByte_of_le h]

theorem takeOnBay_taken {b : Byte} {k : Bay} (change : Bay → Arbiter → Arbiter) (h : b.toNat = k.val) :
    s.takeOnBay p b change = ({ s with arb := change k s.arb } : State).evaluate.reply p .ok := by
  rw [takeOnBay, bayOfByte_eq h]
  exact congrArg (reply p .ok) (oweAndSettle_eq _)

end

end State

/-- Settles O36. -/
theorem theArbiterCommandsSetOneThingAndEvaluate : Obligations.TheArbiterCommandsSetOneThingAndEvaluate := by
  unfold Obligations.TheArbiterCommandsSetOneThingAndEvaluate
  intro s ha
  refine ⟨fun h => ?_, fun h => ?_, fun mode => ⟨fun h => ?_, fun h => ?_⟩, fun b => ⟨fun h => ⟨?_, ?_, ?_⟩, fun k h => ⟨?_, ?_, ?_⟩⟩⟩
  · rw [State.exec_commission ha, State.takeCommission_again _ h]
  · rw [State.exec_commission ha, State.takeCommission_first _ h]
  · rw [State.exec_setArbitration ha, State.takeMode_refused _ h]
  · rw [State.exec_setArbitration ha, State.takeMode_taken _ h]
  · rw [State.exec_promote ha, State.takeOnBay_refused _ _ h]
  · rw [State.exec_mask ha, State.takeOnBay_refused _ _ h]
  · rw [State.exec_unmask ha, State.takeOnBay_refused _ _ h]
  · rw [State.exec_promote ha, State.takeOnBay_taken _ _ h]
    rfl
  · rw [State.exec_mask ha, State.takeOnBay_taken _ _ h]
    rfl
  · rw [State.exec_unmask ha, State.takeOnBay_taken _ _ h]
    rfl

/-! ## SET_PLANT (R50, R168, R178) -/

theorem WaterInventory.onSettings_eq (st : Settings) (w : WaterInventory) : w.onSettings st =
    if w.pump = .running ∧ st.drainFitted = false then { w with pump := .off, drainStart := none, drainRun := none } else w := by
  simp only [onSettings, pumpOff, Bool.and_eq_true, decide_eq_true_eq, Bool.not_eq_true']

namespace State

variable {s : State}

/-- Where no grant exists the draw is the base reserve (R73). -/
theorem applySettings_before {st : Settings} (h : s.arb.steamRow = none ∧ s.arb.slotA = none ∧ s.arb.slotB = none ∧ s.dry.comp = .off) :
    s.applySettings st = { s with
      arb := { s.arb with settings := st, committed := st.baseReserve }
      water := if s.water.pump = .running ∧ st.drainFitted = false then
          { s.water with pump := .off, drainStart := none, drainRun := none }
        else s.water } := by
  obtain ⟨hrow, hA, hB, hcomp⟩ := h
  have hdraw : ({ s.arb with settings := st } : Arbiter).draw s.dry.comp = st.baseReserve :=
    draw_idle (a := { s.arb with settings := st }) hrow hA hB (by simp [Arbiter.compressorCounted, hA, hB, hcomp])
  have hset : s.applySettings st = { s with
      arb := { s.arb with settings := st, committed := ({ s.arb with settings := st } : Arbiter).draw s.dry.comp }
      water := s.water.onSettings st } := rfl
  rw [hset, hdraw, WaterInventory.onSettings_eq]

end State

/-- Settles O37. -/
theorem setPlantAppliesARecordWholeOrNotAtAll : Obligations.SetPlantAppliesARecordWholeOrNotAtAll := by
  unfold Obligations.SetPlantAppliesARecordWholeOrNotAtAll
  intro record s ha hlen
  rw [State.exec_setPlant ha hlen]
  refine ⟨fun h => ?_, fun h => ⟨fun hbad => ?_, fun st hparse hbefore => ?_⟩⟩
  · rw [State.takeSettings, h]
  · rw [State.takeSettings, h, hbad]
  · rw [State.takeSettings, h, hparse]
    change Host.Outcome.next ((s.applySettings st).reply .service .ok) = _
    rw [State.applySettings_before (hbefore h)]

/-! ## CLEAR_TRIP (R109, R167) -/

theorem SteamUnit.clearTrip_eq (u : SteamUnit) : u.clearTrip = { u with
    gen := .off, fill := if u.lowProbe = .dry ∧ u.fill = none then some 0 else u.fill } := by
  by_cases hlow : u.lowProbe = .dry
  · by_cases hfill : u.fill = none
    · simp [clearTrip, startFill, hlow, hfill]
    · simp [clearTrip, startFill, hlow, hfill]
  · simp [clearTrip, hlow]

theorem SteamUnit.clearable_eq (faulted : Bool) (boiler : Int) (u : SteamUnit) :
    u.clearable faulted boiler = decide (u.gen = .tripped ∧ boiler < 1000 ∧ faulted = false) := by
  cases faulted <;> simp [clearable, Params.clearTripBelow]

namespace State

variable {s : State}

theorem takeClearTrip_refused (p : Port) (hgen : s.steam.clearable (s.chan boilerChannel).faulted (s.chan boilerChannel).value = false)
    (hdrain : s.water.clearable = false) : s.takeClearTrip p = s.reply p .wrongState :=
  if_neg (by rw [tripClearable, hgen, hdrain]; decide)

/-- The drain's part of CLEAR_TRIP, which no evaluation follows. -/
theorem takeClearTrip_drain (p : Port) (hn : s.NothingOwed)
    (hgen : s.steam.clearable (s.chan boilerChannel).faulted (s.chan boilerChannel).value = false) (hdrain : s.water.clearable = true) :
    s.takeClearTrip p = ({ s with water := s.water.clearFault } : State).reply p .ok := by
  have hclear : s.clearGenerator.clearDrain = { s with water := s.water.clearFault } := by
    rw [clearGenerator, if_neg (by rw [hgen]; decide), clearDrain, if_pos hdrain]
    rfl
  rw [takeClearTrip, if_pos (by rw [tripClearable, hgen, hdrain]; rfl), hclear]
  exact congrArg (reply p .ok) (settle_of_not_owed _ hn)

/-- The generator's part, with the drain's where there is one, and the evaluation that leaving TRIPPED calls for (R62). -/
theorem takeClearTrip_generator (p : Port) (hgen : s.steam.clearable (s.chan boilerChannel).faulted (s.chan boilerChannel).value = true) :
    s.takeClearTrip p = ({ s with
      steam := s.steam.clearTrip
      water := if s.water.clearable then s.water.clearFault else s.water } : State).evaluate.reply p .ok := by
  have hclear : s.clearGenerator.clearDrain = ({ s with
      steam := s.steam.clearTrip
      water := if s.water.clearable then s.water.clearFault else s.water } : State).mapArb Arbiter.owe := by
    rw [clearGenerator, if_pos hgen, clearDrain]
    change (if s.water.clearable = true then _ else _) = _
    split <;> rfl
  rw [takeClearTrip, if_pos (by rw [tripClearable, hgen]; rfl), hclear]
  exact congrArg (reply p .ok) (oweAndSettle_eq _)

end State

/-- Settles O39. -/
theorem clearTripClearsWhatItCan : Obligations.ClearTripClearsWhatItCan := by
  unfold Obligations.ClearTripClearsWhatItCan
  intro gen drain s u ha hgen hdrain hu
  have hclearable : s.steam.clearable (s.chan boilerChannel).faulted (s.chan boilerChannel).value = gen := by
    rw [SteamUnit.clearable_eq, hgen]
    rfl
  have hfault : s.water.clearable = drain := hdrain.symm
  rw [State.exec_clearTrip ha]
  refine ⟨fun hg hd => ?_, fun hg => ?_, fun hg hd hn => ?_⟩
  · rw [State.takeClearTrip_refused _ (hclearable.trans hg) (hfault.trans hd)]
  · have hsteam : u = { s with
        steam := s.steam.clearTrip, water := if s.water.clearable then s.water.clearFault else s.water } := by
      rw [SteamUnit.clearTrip_eq, hfault, hu, hg]
      rfl
    rw [State.takeClearTrip_generator _ (hclearable.trans hg), hsteam]
  · have hsteam : u = { s with water := s.water.clearFault } := by
      rw [hu, hg, hd]
      rfl
    rw [State.takeClearTrip_drain _ hn (hclearable.trans hg) (hfault.trans hd), hsteam]

/-! ## BLOCKING_BY_AGE (R54) -/

theorem blocking_iff (e : Entry) : e.blocking = true ↔ 3 ≤ e.bypass ∨ e.ageMark = .reached ∨ e.ageMark = .blocking := by
  cases h : e.ageMark <;> simp [Entry.blocking, Params.bypassLimit, h]

namespace State

theorem blockingByAge_reached {s : State} {k : Bay} {e : Entry} (he : s.arb.requests.get k = some e) (hm : e.ageMark = .reached) :
    s.blockingByAge k =
      if e.bypass < 3 then
        ({ s with arb := { s.arb with requests := s.arb.requests.set k (some { e with ageMark := .blocking }) } } : State).evaluate
      else { s with arb := { s.arb with requests := s.arb.requests.set k (some { e with ageMark := .blocking }) } } := by
  unfold blockingByAge
  rw [he]
  dsimp only
  rw [if_pos hm, oweAndSettle_eq]
  rfl

end State

/-- Settles O40. -/
theorem anAgedEntryBlocksAndIsWalked : Obligations.AnAgedEntryBlocksAndIsWalked := by
  unfold Obligations.AnAgedEntryBlocksAndIsWalked
  refine ⟨fun k e u s he hm hu => ?_, blocking_iff⟩
  subst hu
  have hrow := State.blockingByAge_reached he hm
  exact ⟨fun h => congrArg Host.Outcome.next (hrow.trans (if_pos h)),
    fun h => congrArg Host.Outcome.next (hrow.trans (if_neg (Nat.not_lt.mpr h)))⟩

end Sys2Proof.Machine

/-!
PROOFS. SET_BUDGET (R78, R80 to R85): the clamp, the four stages of a shed, and what a revocation leaves (R28, R68).
-/

namespace Sys2Proof.Machine.State

variable {s : State}

theorem clampBudget_eq (watts : Nat) : clampBudget watts = max 1000 (min 7200 watts) := clampNat_eq (by decide) watts

theorem exec_setBudget (watts : Word16) (ha : s.Accepts .service) : exec (.setBudget .service watts) s =
    .next (((s.withBudget (max 1000 (min 7200 watts.toNat))).shed.evaluate).reply .service .ok) := by
  have hrow : exec (.setBudget .service watts) s = .next (s.takeBudget .service watts.toNat) :=
    congrArg Host.Outcome.next (exec_service ha _ (by decide) rfl rfl (by decide))
  rw [hrow, takeBudget, oweAndSettle_eq, clampBudget_eq]
  rfl

theorem overBudget_iff (s : State) : s.overBudget = true ↔ s.arb.budget < s.arb.committed := decide_eq_true_iff

theorem shed_within (h : s.overBudget = false) : s.shed = s := if_neg (by rw [h]; decide)

theorem shed_over (h : s.overBudget = true) : s.shed = s.shedStages.raisePlant .shed := if_pos h

theorem shedTail_eq (s : State) : s.shedTail =
    if s.arb.budget < s.arb.committed ∧ s.arb.slotA = none ∧ s.arb.slotB = none then
      { s with
        dry := s.dry.forcedStop s.arb.settings
        arb := { s.arb with committed := s.arb.draw (s.dry.forcedStop s.arb.settings).comp } }
    else s := by
  unfold shedTail
  simp only [overBudget_iff, Option.isNone_iff_eq_none]
  rfl

theorem shedSteam_within (h : s.arb.committed ≤ s.arb.budget ∨ s.arb.steamRow = none) : s.shedSteam = s := by
  unfold shedSteam
  split
  next k hk =>
    have hle := h.resolve_right (by rw [hk]; nofun)
    exact if_neg fun hover => Nat.not_lt.mpr hle ((overBudget_iff s).mp hover)
  next => rfl

theorem shedSteam_over {k : Bay} (h : s.arb.budget < s.arb.committed) (hk : s.arb.steamRow = some k) :
    s.shedSteam = s.revokeSteam k := by
  unfold shedSteam
  rw [hk]
  exact if_pos ((overBudget_iff s).mpr h)

theorem shed_notices (s : State) (q : Port) : (((s.raisePlant .shed).evaluate).port q).notices.shed = true := by
  rw [(evaluate_onlyGrants (s.raisePlant .shed)).notices q, raisePlant_notices, if_neg (by rintro ⟨h, -⟩; cases h)]
  rfl

theorem revokeDry_fold_budget (l : List Bay) (s : State) : (l.foldl (fun x k => x.revokeDry k) s).arb.budget = s.arb.budget := by
  induction l generalizing s with
  | nil => rfl
  | cons k l ih => exact (ih _).trans (congrArg Stable.budget (revokeDry_stable s k))

theorem RingWhole.reverse_nodup (h : s.RingWhole) : s.arb.ring.reverse.Nodup :=
  List.nodup_reverse.mpr (h.nodup_iff.mpr (by decide))

end Sys2Proof.Machine.State

namespace Sys2Proof.Machine

/-- Settles O38. -/
theorem setBudgetClampsShedsAndEvaluates : Obligations.SetBudgetClampsShedsAndEvaluates := by
  unfold Obligations.SetBudgetClampsShedsAndEvaluates
  refine ⟨fun watts w s ha hw => ?_, fun s k r hr => ⟨fun hk hs _ => s.revokeSteam_spec hr hk hs, fun hk _ => s.revokeDry_spec hr hk⟩⟩
  have hexec := State.exec_setBudget watts ha
  rw [← hw] at hexec
  refine ⟨fun hle => ?within, fun hover hlawful => ?sheds⟩
  case within =>
    have hno : (s.withBudget w).overBudget = false := State.not_overBudget_iff.mpr hle
    rw [hexec, State.shed_within hno]
    rfl
  case sheds =>
    let s' := s.withBudget w
    let a := State.shedReheat State.overBudget s'.arb.ring.reverse s'
    let b := a.shedTail
    let c := State.shedDry s'.arb.ring.reverse b
    have hover' : s'.overBudget = true := (State.overBudget_iff s').mpr hover
    have hbase : s'.PowerBase := by
      have := State.withBudget_base hlawful watts.toNat
      rwa [State.clampBudget_eq, ← hw] at this
    have hbudgetA : a.arb.budget = w := (State.shedReheat_shrinks ..).rules.1
    have hbudgetB : b.arb.budget = w := (State.shedTail_shrinks a).rules.1.trans hbudgetA
    have hbudgetC : c.arb.budget = w := (State.shedDry_shrinks ..).rules.1.trans hbudgetB
    have hshed : s'.shed = s'.shedStages.raisePlant .shed := State.shed_over hover'
    have hlaw : ((s'.shedStages.raisePlant .shed).evaluate).PowerLawful := by
      rw [← hshed]
      exact (State.shed_lawful hbase).evaluate
    obtain ⟨n, -, htake, hfront, hstop⟩ := b.shedDry_take s'.arb.ring.reverse (State.RingWhole.reverse_nodup hbase.ring)
    refine ⟨n, _, a, b, c, s'.shedStages, (s'.shedStages.raisePlant .shed).evaluate, rfl, ?tail, rfl, htake, fun m hm _ => ?dry,
      fun hn => ?dryStop, fun h => ?steamKept, fun h k hk => ?steam, ?within, rfl, ?exec, ?stable, ?committed, State.shed_notices _⟩
    case tail =>
      have := a.shedTail_eq
      rwa [hbudgetA] at this
    case dry =>
      have hfold := (State.overBudget_iff _).mp (hfront m hm)
      rwa [State.revokeDry_fold_budget, hbudgetB] at hfold
    case dryStop =>
      have hfit := State.not_overBudget_iff.mp (hstop hn)
      rwa [hbudgetC] at hfit
    case steamKept => exact State.shedSteam_within (hbudgetC ▸ h)
    case steam => exact State.shedSteam_over (by rw [hbudgetC]; exact h) hk
    case within => exact State.shedStages_within hbase
    case exec => rw [hexec, hshed]
    case stable => rw [State.evaluate_stable, State.raisePlant_stable, State.shedStages_stable]; rfl
    case committed =>
      have hbudget : ((s'.shedStages.raisePlant .shed).evaluate).arb.budget = w :=
        congrArg Stable.budget ((State.evaluate_stable _).trans ((State.raisePlant_stable _ _).trans (State.shedStages_stable s')))
      have hle := hlaw.budget.2.2.2
      rwa [hbudget] at hle

end Sys2Proof.Machine

/-!
PROOFS. The steam unit at a grant, at the end of one and at a scan complete (R92 to R102, R106, R107).
-/

namespace Sys2Proof.Machine

namespace SteamUnit

variable {u : SteamUnit} {h : Bay}

/-! ## A grant and its end (R92, R94, R96, R100, R101) -/

theorem tryDeliver_not_ready (hg : u.gen ≠ .ready) : u.tryDeliver h = u := if_neg fun hc => hg hc.1

theorem tryDeliver_held (hd : u.dwellHolds h = true) : u.tryDeliver h = u := if_neg fun hc => by rw [hd] at hc; cases hc.2

theorem tryDeliver_free (hg : u.gen = .ready) (hd : u.dwellHolds h = false) : u.tryDeliver h = { u with
    gen := .delivering
    valves := u.valves.set h true
    dwellBay := if u.dwellBay = some h then none else u.dwellBay
    dwellRemaining := if u.dwellBay = some h then 0 else u.dwellRemaining } := if_pos ⟨hg, hd⟩

/-- The holder's own dwell ends with its delivery. -/
theorem tryDeliver_own (hg : u.gen = .ready) (hb : u.dwellBay = some h) : u.tryDeliver h = { u with
    gen := .delivering, valves := u.valves.set h true, dwellBay := none, dwellRemaining := 0 } := by
  have hd : u.dwellHolds h = false := by simp [dwellHolds, hb]
  rw [tryDeliver_free hg hd, if_pos hb, if_pos hb]

/-- No dwell holds the generator back, and one that has elapsed is left to its row. -/
theorem tryDeliver_other (hg : u.gen = .ready) (hb : u.dwellBay = none ∨ u.dwellBay ≠ some h ∧ u.dwellRemaining = 0) :
    u.tryDeliver h = { u with gen := .delivering, valves := u.valves.set h true } := by
  have hne : u.dwellBay ≠ some h := hb.elim (fun hn => by rw [hn]; nofun) And.left
  have hd : u.dwellHolds h = false := by
    rw [Bool.eq_false_iff, Ne, dwellHolds_iff]
    rintro ⟨b, hsome, -, hrem⟩
    rcases hb with hnone | ⟨-, hzero⟩
    · rw [hnone] at hsome; cases hsome
    · exact hrem hzero
  rw [tryDeliver_free hg hd, if_neg hne, if_neg hne]

theorem switchHeater_of_lt (boiler : Int) (v : SteamUnit) : switchHeater (boiler < Params.heaterOnBelow) v = { v with
    heater := decide (boiler < 1200), dryFire := if boiler < 1200 then v.dryFire else 0 } := by
  simp [switchHeater, Params.heaterOnBelow]

theorem startGrant_eq (boiler : Int) (hg : u.gen = .off ∨ u.gen = .warmHold) : u.startGrant boiler h = tryDeliver h { u with
    warmHold := none
    heater := decide (boiler < 1200)
    dryFire := if boiler < 1200 then u.dryFire else 0
    gen := if 1050 ≤ boiler then .ready else .heating } := by
  unfold startGrant
  rcases hg with hg | hg <;> rw [hg] <;> exact congrArg (tryDeliver h) (switchHeater_of_lt ..)

/-- The generator at rest once more, warm where the setting says so (R100). -/
theorem toWarmHold_eq (setting : Nat) (v : SteamUnit) : toWarmHold setting v = { v with
    gen := if setting = 0 then .off else .warmHold
    warmHold := if setting = 0 then none else some (setting * 100)
    heater := false
    dryFire := 0 } := rfl

theorem startDwell_eq (setting : Nat) (v : SteamUnit) : startDwell setting h v = { v with
    dwellBay := if setting = 0 then v.dwellBay else some h
    dwellRemaining := if setting = 0 then v.dwellRemaining else setting * 100 } := by
  unfold startDwell
  by_cases h0 : setting = 0
  · simp only [h0, if_true]
  · simp only [h0, if_false, Params.ticksPerSecond]

end SteamUnit

/-- Settles O41. -/
theorem aSteamGrantHeatsOrDeliversAndItsEndWarms : Obligations.ASteamGrantHeatsOrDeliversAndItsEndWarms := by
  unfold Obligations.ASteamGrantHeatsOrDeliversAndItsEndWarms
  refine ⟨fun u w boiler h hg hw => ?_, fun u w st h hw => ⟨fun hg => ?_, fun hg => ?_, fun hg => ?_⟩⟩
  · have hgrant : u.startGrant boiler h = SteamUnit.tryDeliver h { w with gen := if 1050 ≤ boiler then .ready else .heating } := by
      rw [SteamUnit.startGrant_eq boiler hg, hw]
    refine ⟨fun hcold => ?_, fun hhot => ?_⟩
    · rw [hgrant, if_neg (Int.not_le.mpr hcold)]
      exact SteamUnit.tryDeliver_not_ready nofun
    · rw [if_pos hhot] at hgrant
      have hbay : w.dwellBay = u.dwellBay := by rw [hw]
      have hrem : w.dwellRemaining = u.dwellRemaining := by rw [hw]
      have hvalves : w.valves = u.valves := by rw [hw]
      rw [hgrant, ← hbay, ← hrem, ← hvalves]
      exact ⟨fun hheld => SteamUnit.tryDeliver_held ((SteamUnit.dwellHolds_iff ..).mpr hheld),
        fun hown => SteamUnit.tryDeliver_own rfl hown, fun hfree => SteamUnit.tryDeliver_other rfl hfree⟩
  · have hend : u.endGrant st h = SteamUnit.toWarmHold st.warmHold u := by
      unfold SteamUnit.endGrant
      rcases hg with hg | hg <;> rw [hg]
    rw [hend, SteamUnit.toWarmHold_eq, hw]
  · unfold SteamUnit.endGrant
    rw [hg]
    dsimp only
    rw [SteamUnit.toWarmHold_eq, SteamUnit.startDwell_eq, hw]
  · unfold SteamUnit.endGrant
    rw [hg]

/-! ## A scan complete (R93, R94, R96, R98, R99, R106) -/

namespace SteamUnit

variable {u : SteamUnit} {h : Bay} {boiler rh target : Int} {bad : Bool}

/-- What the heater is after a scan in a regulating state (R96). -/
def heaterAfter (boiler : Int) (u : SteamUnit) : Bool := if boiler < 1200 then true else if 1250 ≤ boiler then false else u.heater

/-- What the dry-fire time is after a scan in a regulating state (R107). -/
def dryFireAfter (boiler : Int) (u : SteamUnit) : Nat := if 1250 ≤ boiler then 0 else u.dryFire

theorem scan_delivering_eq (hg : u.gen = .delivering) : u.scan h boiler bad rh target = { u with
    valves := u.valves.set h (if bad then false else if u.valves.get h then decide (rh < target) else decide (rh < target - 20))
    heater := u.heaterAfter boiler
    dryFire := u.dryFireAfter boiler } := by
  rw [scan_delivering u h boiler rh target bad hg, modulate_eq, regulate_eq]
  · rfl
  · exact .inr (.inr hg)

theorem scan_ready_eq (hg : u.gen = .ready) : u.scan h boiler bad rh target = { u with
    gen := if boiler < 1050 then .heating else .ready
    heater := u.heaterAfter boiler
    dryFire := u.dryFireAfter boiler } := by
  rw [scan_ready u h boiler rh target bad hg, regulate_eq]
  · rfl
  · dsimp only
    split
    · exact .inl rfl
    · exact .inr (.inl rfl)

theorem scan_heating_cold (hg : u.gen = .heating) (hb : boiler < 1050) : u.scan h boiler bad rh target = { u with
    heater := u.heaterAfter boiler, dryFire := u.dryFireAfter boiler } := by
  rw [scan_heating u h boiler rh target bad hg, advance_cold u h boiler hg hb, regulate_eq _ _ (.inl hg)]
  rfl

theorem scan_heating_held (hg : u.gen = .heating) (hb : 1050 ≤ boiler) (hd : u.dwellHolds h = true) :
    u.scan h boiler bad rh target = { u with
      gen := .ready, heater := u.heaterAfter boiler, dryFire := u.dryFireAfter boiler } := by
  rw [scan_heating u h boiler rh target bad hg, advance_held u h boiler hg hb hd, regulate_eq _ _ (.inr (.inl rfl))]
  rfl

theorem scan_heating_delivers (hg : u.gen = .heating) (hb : 1050 ≤ boiler) (hd : u.dwellHolds h = false) :
    u.scan h boiler bad rh target = { u with
      gen := .delivering
      valves := u.valves.set h true
      dwellBay := if u.dwellBay = some h then none else u.dwellBay
      dwellRemaining := if u.dwellBay = some h then 0 else u.dwellRemaining
      heater := u.heaterAfter boiler
      dryFire := u.dryFireAfter boiler } := by
  rw [scan_heating u h boiler rh target bad hg, advance_delivers u h boiler hg hb hd, regulate_eq _ _ (.inr (.inr rfl))]
  rfl

/-- The three ways in which a scan finds a generator that heats. -/
theorem heating_cases (boiler : Int) (h : Bay) (u : SteamUnit) :
    boiler < 1050 ∨ 1050 ≤ boiler ∧ u.dwellHolds h = true ∨ 1050 ≤ boiler ∧ u.dwellHolds h = false := by
  cases u.dwellHolds h <;> simp <;> omega

theorem scan_others (u : SteamUnit) (h : Bay) (boiler : Int) (bad : Bool) (rh target : Int) :
    { u.scan h boiler bad rh target with
      gen := u.gen, heater := u.heater, valves := u.valves, dwellBay := u.dwellBay, dwellRemaining := u.dwellRemaining
      dryFire := u.dryFire } = u := by
  cases hg : u.gen with
  | delivering => rw [scan_delivering_eq hg, ← hg]
  | ready => rw [scan_ready_eq hg, ← hg]
  | heating =>
    rcases heating_cases boiler h u with hb | ⟨hb, hd⟩ | ⟨hb, hd⟩
    · rw [scan_heating_cold hg hb, ← hg]
    · rw [scan_heating_held hg hb hd, ← hg]
    · rw [scan_heating_delivers hg hb hd, ← hg]
  | off => rw [scan_rest u h boiler rh target bad (.inl hg), ← hg]
  | warmHold => rw [scan_rest u h boiler rh target bad (.inr (.inl hg)), ← hg]
  | tripped => rw [scan_rest u h boiler rh target bad (.inr (.inr hg)), ← hg]

theorem scan_heater (hg : u.gen = .heating ∨ u.gen = .ready ∨ u.gen = .delivering) :
    (u.scan h boiler bad rh target).heater = u.heaterAfter boiler ∧
    (u.scan h boiler bad rh target).dryFire = u.dryFireAfter boiler := by
  rcases hg with hg | hg | hg
  · rcases heating_cases boiler h u with hb | ⟨hb, hd⟩ | ⟨hb, hd⟩
    · rw [scan_heating_cold hg hb]; exact ⟨rfl, rfl⟩
    · rw [scan_heating_held hg hb hd]; exact ⟨rfl, rfl⟩
    · rw [scan_heating_delivers hg hb hd]; exact ⟨rfl, rfl⟩
  · rw [scan_ready_eq hg]; exact ⟨rfl, rfl⟩
  · rw [scan_delivering_eq hg]; exact ⟨rfl, rfl⟩

end SteamUnit

namespace State

variable {s : State}

theorem scanSteam_idle (ht : s.steam.scanTrip (s.chan 16).faulted (s.chan 16).value = none) (hrow : s.arb.steamRow = none) :
    s.scanSteam = s := by
  have ht' : s.steam.scanTrip (s.chan boilerChannel).faulted (s.chan boilerChannel).value = none := ht
  unfold scanSteam
  dsimp only
  rw [ht', hrow]

theorem scanSteam_holder (ht : s.steam.scanTrip (s.chan 16).faulted (s.chan 16).value = none) {h : Bay} {r : StepRecord}
    (hrow : s.arb.steamRow = some h) (hr : (s.bay h).currentStep = some r) : s.scanSteam = { s with
      steam := s.steam.scan h (s.chan 16).value (s.chan (bayChannel h 3)).faulted (s.chan (bayChannel h 3)).value r.target } := by
  have ht' : s.steam.scanTrip (s.chan boilerChannel).faulted (s.chan boilerChannel).value = none := ht
  have htarget : s.stepTarget h = r.target := by rw [stepTarget, hr]
  unfold scanSteam
  dsimp only
  rw [ht', hrow]
  change s.mapSteam (SteamUnit.scan h _ _ _ (s.stepTarget h)) = _
  rw [htarget]
  rfl

end State

/-- Settles O42: one equation of the unit after a scan for each state in which the scan finds it. -/
theorem theSteamUnitTakesAScanInOrder : Obligations.TheSteamUnitTakesAScanInOrder := by
  unfold Obligations.TheSteamUnitTakesAScanInOrder
  refine ⟨fun s ht => ⟨State.scanSteam_idle ht, fun h r => State.scanSteam_holder ht⟩, fun u boiler rh target bad h =>
    ⟨u.dwellHolds_iff h, u.scan_others h boiler bad rh target, rfl, fun hg => ?delivering, fun hg => ?ready,
      fun hg => ⟨fun hb => ?_, fun hb => ?_, fun hb => ?_, fun hb hd => ?_⟩, SteamUnit.scan_heater,
      u.scan_rest h boiler rh target bad⟩⟩
  case delivering =>
    rw [SteamUnit.scan_delivering_eq hg]
    exact ⟨hg, rfl, rfl, rfl⟩
  case ready =>
    rw [SteamUnit.scan_ready_eq hg]
    exact ⟨rfl, rfl, rfl, rfl⟩
  · rw [SteamUnit.scan_heating_cold hg hb]
    exact hg
  · cases hd : u.dwellHolds h with
    | true => rw [SteamUnit.scan_heating_held hg hb hd]; rfl
    | false => rw [SteamUnit.scan_heating_delivers hg hb hd]; rfl
  · rcases u.heating_cases boiler h with hcold | ⟨hhot, hd⟩ | ⟨hhot, hd⟩
    · rw [SteamUnit.scan_heating_cold hg hcold]
      exact ⟨rfl, rfl, rfl⟩
    · rw [SteamUnit.scan_heating_held hg hhot hd]
      exact ⟨rfl, rfl, rfl⟩
    · rcases hb with hb | hb
      · omega
      · rw [hd] at hb; cases hb
  · rw [SteamUnit.scan_heating_delivers hg hb hd]
    exact ⟨rfl, rfl, rfl⟩

end Sys2Proof.Machine

/-!
PROOFS. The trip of the generator (R69, R105 to R108), the steam unit's timers and its probes (R101 to R104, R107).
-/

namespace Sys2Proof.Machine

/-! ## A trip (R68, R69, R108) -/

theorem SteamUnit.trip_eq_tripped (st : Settings) (cause : TripCause) (holder : Option Bay) (u : SteamUnit) :
    u.trip st cause holder = u.tripped st holder cause := by
  cases hg : u.gen with
  | delivering =>
    cases holder with
    | none => simp [trip, tripped, switchHeater, hg]
    | some h =>
      by_cases hd : st.dwell = 0 <;> simp [trip, tripped, switchHeater, startDwell, hg, hd, Params.ticksPerSecond]
  | _ => simp [trip, tripped, switchHeater, hg]

theorem SteamUnit.fillDue_iff (u : SteamUnit) : u.fillDue = true ↔ u.gen ≠ .tripped ∧ ∃ n, u.fill = some n ∧ 2000 ≤ n := by
  unfold fillDue
  cases u.fill <;> simp [Params.fillTicks, and_comm]

theorem SteamUnit.dryFireDue_iff (u : SteamUnit) :
    u.dryFireDue = true ↔ u.gen ≠ .tripped ∧ 500 ≤ u.dryFire ∧ u.fillDue = false := by
  simp [dryFireDue, Params.dryFireTicks, and_assoc, and_left_comm]

namespace State

variable {s t : State} {cause : TripCause}

/-- The unit as a trip leaves it, before the holder is told. -/
def withTrip (s : State) (cause : TripCause) : State := s.mapSteam (SteamUnit.trip s.arb.settings cause s.arb.steamRow)

theorem withTrip_steam : (s.withTrip cause).steam = s.steam.tripped s.arb.settings s.arb.steamRow cause :=
  SteamUnit.trip_eq_tripped ..

theorem endGrant_tripped {u : SteamUnit} (st : Settings) (h : Bay) (hg : u.gen = .tripped) : u.endGrant st h = u := by
  unfold SteamUnit.endGrant
  rw [hg]

theorem tripGenerator_free (hrow : s.arb.steamRow = none) :
    s.tripGenerator cause = ((s.withTrip cause).mapArb Arbiter.owe).raisePlant .trip := by
  unfold tripGenerator
  rw [hrow]
  dsimp only
  unfold withTrip
  rw [hrow]

theorem tripGenerator_held {h : Bay} (hrow : s.arb.steamRow = some h) :
    s.tripGenerator cause = (((s.withTrip cause).revokeSteam h).mapArb Arbiter.owe).raisePlant .trip := by
  unfold tripGenerator
  rw [hrow]
  dsimp only
  unfold withTrip
  rw [hrow]

/-- The trip with its mark of the evaluation owed set aside. -/
theorem settle_of_tripped (v : State) : ((v.mapArb Arbiter.owe).raisePlant .trip).settle =
    (({ v with arb := { v.arb with evalOwed := false } } : State).raisePlant .trip).evaluate :=
  (settle_eq _).trans (if_pos rfl)

theorem raisePlant_trip_port (v : State) (q : Port) : ((v.raisePlant .trip).port q).bus = (v.port q).bus ∧
    ((v.raisePlant .trip).port q).notices = { (v.port q).notices with trip := true } := by
  refine ⟨bus_of_stable (raisePlant_stable v .trip) q, ?_⟩
  rw [raisePlant_notices, if_neg (by rintro ⟨h, -⟩; cases h)]
  rfl

/-- The holder of the STEAM row is told, or there is none. -/
theorem tripGenerator_tripsTo (hold : s.HoldersActive) (cause : TripCause) : s.TripsTo cause (s.tripGenerator cause).settle := by
  cases hrow : s.arb.steamRow with
  | none =>
    rw [tripGenerator_free hrow, settle_of_tripped]
    refine ⟨_, { s.withTrip cause with arb := { s.arb with evalOwed := false } }, rfl, rfl, withTrip_steam, fun _ => rfl,
      (by rw [hrow]; nofun), rfl, fun q => raisePlant_trip_port _ q⟩
  | some h =>
    obtain ⟨r, hr, hk⟩ : ∃ r, (s.bay h).currentStep = some r ∧ r.kind = .steam := by
      have hkind := (hold.1 h (decide_eq_true hrow)).2
      rw [BayContext.currentKind, Option.map_eq_some_iff] at hkind
      exact hkind
    have hholds : (s.withTrip cause).arb.holdsSteam h = true := decide_eq_true hrow
    obtain ⟨hlets, -, hbay⟩ := (s.withTrip cause).revokeSteam_spec hr hk hholds
    have hsteam : ((s.withTrip cause).revokeSteam h).steam = (s.withTrip cause).steam := by
      rw [hlets.steam, if_pos hholds]
      exact endGrant_tripped _ _ (congrArg SteamUnit.gen withTrip_steam)
    rw [tripGenerator_held hrow, settle_of_tripped]
    refine ⟨_, { (s.withTrip cause).revokeSteam h with
        arb := { ((s.withTrip cause).revokeSteam h).arb with evalOwed := false } }, rfl, rfl, hsteam.trans withTrip_steam,
      (by rw [hrow]; nofun), fun j hj => ?_, rfl, fun q => raisePlant_trip_port _ q⟩
    obtain rfl : h = j := Option.some.inj (hrow.symm.trans hj)
    refine ⟨?_, hbay⟩
    have hbefore : ({ s with steam := ((s.withTrip cause).revokeSteam h).steam } : State) = s.withTrip cause := by
      rw [hsteam]
      rfl
    change State.LetsGo { s with steam := ((s.withTrip cause).revokeSteam h).steam } _ h _ _
    rw [hbefore]
    exact hlets.owed false

/-- What a trip leaves at the steam unit and in the STEAM row: nothing to grant. -/
theorem TripsTo.outcome (h : s.TripsTo cause t) : t.stable = s.stable ∧ t.arb.steamRow = none ∧
    t.steam = s.steam.tripped s.arb.settings s.arb.steamRow cause ∧ ∀ q, (t.port q).notices.trip = true := by
  obtain ⟨u, w, rfl, -, hsteam, hfree, hheld, huw, hports⟩ := h
  have honly := evaluate_onlyGrants u
  have hwrow : w.arb.steamRow = none ∧ w.stable = s.stable := by
    cases hrow : s.arb.steamRow with
    | none =>
      have hw := hfree hrow
      have harb : w.arb = { s.arb with evalOwed := false } := (congrArg State.arb hw :)
      have hstable : w.stable = ({ s with arb := { s.arb with evalOwed := false } } : State).stable := (congrArg State.stable hw :)
      exact ⟨by rw [harb]; exact hrow, hstable⟩
    | some h =>
      obtain ⟨hlets, -⟩ := hheld h hrow
      have hholds : s.arb.holdsSteam h = true := decide_eq_true hrow
      exact ⟨hlets.row.trans (if_pos hholds), hlets.stable⟩
  have huarb : u.arb = w.arb := (congrArg State.arb huw :)
  have husteam : u.steam = w.steam := (congrArg State.steam huw :)
  have hustable : u.stable = w.stable := by
    have hbus : (fun q => (u.port q).bus) = fun q => (w.port q).bus := funext fun q => (hports q).1
    calc u.stable = { ({ u with ports := w.ports } : State).stable with bus := fun q => (u.port q).bus } := rfl
      _ = w.stable := by rw [huw, hbus]; rfl
  have hurow : u.arb.steamRow = none := by rw [huarb]; exact hwrow.1
  have hsame : u.evaluate.arb.steamRow = u.arb.steamRow := by
    by_contra hne
    obtain ⟨-, hgen, -⟩ := honly.newRow hne
    rw [husteam, hsteam] at hgen
    exact hgen rfl
  refine ⟨?_, hsame.trans hurow, ?_, fun q => ?_⟩
  · rw [honly.stable, hustable, hwrow.2]
  · rw [honly.steam hsame, husteam, hsteam]
  · rw [honly.notices q, (hports q).2]

end State

/-- Settles O43. -/
theorem aTripStopsTheSteamUnitAndRevokesItsGrant : Obligations.ATripStopsTheSteamUnitAndRevokesItsGrant := by
  unfold Obligations.ATripStopsTheSteamUnitAndRevokesItsGrant
  refine ⟨fun s hold => ⟨fun h => ⟨_, rfl, ?fill⟩, fun h => ⟨_, rfl, ?dryFire⟩, fun cause h => ?scan⟩,
    fun u => ⟨u.fillDue_iff, u.dryFireDue_iff⟩, fun s t cause h => h.outcome⟩
  case fill =>
    rw [State.fillTimeout, if_pos h]
    exact State.tripGenerator_tripsTo hold _
  case dryFire =>
    rw [State.dryFire, if_pos h]
    exact State.tripGenerator_tripsTo hold _
  case scan =>
    have hscan : s.scanSteam = (s.tripGenerator cause).settle := by
      unfold State.scanSteam
      dsimp only
      rw [h]
    rw [hscan]
    exact State.tripGenerator_tripsTo hold _

end Sys2Proof.Machine

/-!
PROOFS. The steam unit's timers and probes (R94, R101 to R104, R107), the compressor, the dampers and the reheaters (R112 to R122).
-/

namespace Sys2Proof.Machine

namespace State

variable {s : State} {k : Bay}

/-! ## The steam unit's timers (R94, R101, R102) -/

theorem dwellElapsed_holder {h : Bay} (hb : s.steam.dwellBay ≠ none) (hr : s.steam.dwellRemaining = 0)
    (hrow : s.arb.steamRow = some h) : s.dwellElapsed =
      { s with steam := SteamUnit.tryDeliver h { s.steam with dwellBay := none, dwellRemaining := 0 } } := by
  have hdue : s.steam.dwellDue = true := by simp [SteamUnit.dwellDue, Option.isSome_iff_ne_none, hb, hr]
  rw [dwellElapsed, if_pos hdue]
  simp only [mapSteam, hrow]

theorem dwellElapsed_free (hb : s.steam.dwellBay ≠ none) (hr : s.steam.dwellRemaining = 0) (hrow : s.arb.steamRow = none) :
    s.dwellElapsed = { s with steam := { s.steam with dwellBay := none, dwellRemaining := 0 } } := by
  have hdue : s.steam.dwellDue = true := by simp [SteamUnit.dwellDue, Option.isSome_iff_ne_none, hb, hr]
  rw [dwellElapsed, if_pos hdue]
  simp only [mapSteam, hrow]

theorem warmHoldExpiry_due (hg : s.steam.gen = .warmHold) (hw : s.steam.warmHold = some 0) :
    s.warmHoldExpiry = { s with steam := { s.steam with gen := .off, warmHold := none } } :=
  if_pos (by simp [SteamUnit.warmHoldDue, hg, hw])

end State

namespace SteamUnit

variable {u : SteamUnit}

/-! ## The probes (R103, R104, R107) -/

theorem lowGoesDry_wet (h : u.lowProbe = .wet) : u.lowGoesDry = { u with
    lowProbe := .dry, fill := if u.fill = none ∧ u.gen ≠ .tripped then some 0 else u.fill } := by
  rw [lowGoesDry, if_neg (by rw [h]; decide)]
  unfold startFill
  by_cases hf : u.fill = none ∧ u.gen ≠ .tripped
  · rw [if_pos hf, if_pos hf]
  · rw [if_neg hf, if_neg hf]

theorem lowGoesWet_dry (h : u.lowProbe = .dry) : u.lowGoesWet = { u with lowProbe := .wet, dryFire := 0 } :=
  if_neg (by rw [h]; decide)

theorem highGoesWet_dry (h : u.highProbe = .dry) : u.highGoesWet = { u with highProbe := .wet, fill := none } :=
  if_neg (by rw [h]; decide)

theorem highGoesDry_wet (h : u.highProbe = .wet) : u.highGoesDry = { u with highProbe := .dry } :=
  if_neg (by rw [h]; decide)

end SteamUnit

/-- Settles O44. -/
theorem theSteamTimersElapseAndTheProbesAct : Obligations.TheSteamTimersElapseAndTheProbesAct := by
  unfold Obligations.TheSteamTimersElapseAndTheProbesAct
  refine ⟨fun s => ⟨fun hb hr => ⟨fun h hrow hg => ?ready, fun hno => ?idle⟩,
    fun hg hw => congrArg Host.Outcome.next (State.warmHoldExpiry_due hg hw)⟩, fun s => ⟨fun h => ?_, fun h => ?_, fun h => ?_, fun h => ?_⟩⟩
  case ready =>
    change Host.Outcome.next s.dwellElapsed = _
    rw [State.dwellElapsed_holder hb hr hrow, SteamUnit.tryDeliver_other
      (u := { s.steam with dwellBay := none, dwellRemaining := 0 }) hg (.inl rfl)]
  case idle =>
    change Host.Outcome.next s.dwellElapsed = _
    cases hrow : s.arb.steamRow with
    | none => rw [State.dwellElapsed_free hb hr hrow]
    | some h =>
      have hg : s.steam.gen ≠ .ready := hno.resolve_left (by rw [hrow]; nofun)
      rw [State.dwellElapsed_holder hb hr hrow, SteamUnit.tryDeliver_not_ready
        (u := { s.steam with dwellBay := none, dwellRemaining := 0 }) hg]
  · change Host.Outcome.next s.lowProbeDry = _
    rw [State.lowProbeDry, if_pos h]
    change Host.Outcome.next { s.setLowInput false with steam := s.steam.lowGoesDry } = _
    rw [SteamUnit.lowGoesDry_wet h]
    rfl
  · change Host.Outcome.next s.lowProbeWet = _
    rw [State.lowProbeWet, if_pos h]
    change Host.Outcome.next { s.setLowInput true with steam := s.steam.lowGoesWet } = _
    rw [SteamUnit.lowGoesWet_dry h]
    rfl
  · change Host.Outcome.next s.highProbeWet = _
    rw [State.highProbeWet, if_pos h]
    change Host.Outcome.next { s.setHighInput true with steam := s.steam.highGoesWet } = _
    rw [SteamUnit.highGoesWet_dry h]
    rfl
  · change Host.Outcome.next s.highProbeDry = _
    rw [State.highProbeDry, if_pos h]
    change Host.Outcome.next { s.setHighInput false with steam := s.steam.highGoesDry } = _
    rw [SteamUnit.highGoesDry_wet h]
    rfl

/-! ## The compressor (R112 to R117) -/

namespace DryingCircuit

variable (st : Settings) (d : DryingCircuit)

theorem onGrant_eq : d.onGrant st = match d.comp with
    | .off => if d.minOff = 0 then { d with comp := .running, speed := 60, minRun := some (st.minRun * 100) }
        else { d with comp := .startWait, minRun := none }
    | .startWait => d
    | .running => { d with speed := 100 }
    | .tail => { d with comp := .running, speed := 60 } := rfl

theorem minRunElapsed_iff : d.minRunElapsed = true ↔ d.minRun = none ∨ d.minRun = some 0 := by
  unfold minRunElapsed
  cases d.minRun <;> simp

theorem onRelease_eq (remaining : Nat) : d.onRelease st remaining = match d.comp with
    | .running =>
      if remaining ≠ 0 then { d with speed := 60 }
      else if d.minRun = none ∨ d.minRun = some 0 then
        { d with comp := .off, speed := 0, minRun := none, minOff := st.minOff * 100 }
      else { d with comp := .tail, speed := 60 }
    | .startWait => if remaining ≠ 0 then d else { d with comp := .off, speed := 0, minRun := none }
    | .off | .tail => d := by
  unfold onRelease
  cases hc : d.comp with
  | running =>
    by_cases hr : remaining = 0
    · simp only [hr, if_true, minRunElapsed_iff, ne_eq, not_true_eq_false, if_false]
      rfl
    · simp only [hr, if_false, ne_eq, not_false_eq_true, if_true]
  | startWait =>
    by_cases hr : remaining = 0
    · simp only [hr, if_true, ne_eq, not_true_eq_false, if_false]
      rfl
    · simp only [hr, if_false, ne_eq, not_false_eq_true, if_true]
  | off => rfl
  | tail => rfl

theorem forcedStop_eq : d.forcedStop st = match d.comp with
    | .running | .tail => { d with comp := .off, speed := 0, minRun := none, minOff := st.minOff * 100 }
    | .startWait => { d with comp := .off, speed := 0, minRun := none }
    | .off => d := by
  unfold forcedStop
  cases d.comp <;> rfl

end DryingCircuit

namespace State

variable {s : State} {k : Bay}

theorem dryHolders_eq_two (a : Arbiter) : a.dryHolders = 2 ↔ a.slotA ≠ none ∧ a.slotB ≠ none := by
  rw [a.dryHolders_eq]
  by_cases hA : a.slotA = none <;> by_cases hB : a.slotB = none <;> simp [hA, hB]

theorem minOffExpiry_due (hc : s.dry.comp = .startWait) (hm : s.dry.minOff = 0) : s.minOffExpiry = { s with
    dry := { s.dry with
      comp := .running
      speed := if s.arb.slotA ≠ none ∧ s.arb.slotB ≠ none then 100 else 60
      minRun := some (s.arb.settings.minRun * 100) }
    arb := { s.arb with committed := s.arb.draw .running } } := by
  have hdue : s.dry.minOffDue = true := by simp [DryingCircuit.minOffDue, hc, hm]
  have hspeed : (if s.arb.slotA ≠ none ∧ s.arb.slotB ≠ none then 100 else 60) = if s.arb.dryHolders = 2 then 100 else 60 :=
    if_congr (dryHolders_eq_two s.arb).symm rfl rfl
  rw [minOffExpiry, if_pos hdue, hspeed]
  rfl

theorem minRunExpiry_due (hc : s.dry.comp = .tail) (hm : s.dry.minRun = some 0) : s.minRunExpiry = ({ s with
    dry := { s.dry with comp := .off, speed := 0, minRun := none, minOff := s.arb.settings.minOff * 100 }
    arb := { s.arb with committed := s.arb.draw .off } } : State).evaluate := by
  have hdue : s.dry.minRunDue = true := by simp [DryingCircuit.minRunDue, hc, hm]
  rw [minRunExpiry, if_pos hdue, oweAndSettle_eq]
  rfl

end State

/-! ## The dampers and the reheaters (R119 to R122) -/

namespace AirBay

variable {a : AirBay}

theorem openDamper_closed (h : a.damper = .closed ∨ a.damper = .closing) :
    a.openDamper = { a with damper := .opening, travel := 600 } := by
  unfold openDamper
  rcases h with h | h <;> rw [h]

theorem openDamper_opened (h : a.damper = .opening ∨ a.damper = .opened) : a.openDamper = a := by
  unfold openDamper
  rcases h with h | h <;> rw [h]

theorem closeDamper_opened (h : a.damper = .opening ∨ a.damper = .opened) :
    a.closeDamper = { a with damper := .closing, travel := 600 } := by
  unfold closeDamper
  rcases h with h | h <;> rw [h]

theorem closeDamper_closed (h : a.damper = .closed ∨ a.damper = .closing) : a.closeDamper = a := by
  unfold closeDamper
  rcases h with h | h <;> rw [h]

end AirBay

namespace State

variable {s : State} {k : Bay}

theorem mapAir_eq_set (s : State) (k : Bay) (f : AirBay → AirBay) :
    s.mapAir k f = { s with dry := { s.dry with air := s.dry.air.set k (f (s.air k)) } } := rfl

theorem mapAir_congr {f g : AirBay → AirBay} (h : f (s.air k) = g (s.air k)) : s.mapAir k f = s.mapAir k g := by
  rw [mapAir_eq_set, mapAir_eq_set, h]

theorem mapAir_mapAir (s : State) (k : Bay) (f g : AirBay → AirBay) : (s.mapAir k f).mapAir k g = s.mapAir k (g ∘ f) := by
  have hair : (s.dry.air.modify k f).modify k g = s.dry.air.modify k (g ∘ f) := PerBay.ext_get fun j => by
    simp only [PerBay.get_modify]
    split <;> rfl
  exact congrArg (fun v => { s with dry := { s.dry with air := v } }) hair

theorem mapAir_self {f : AirBay → AirBay} (h : f (s.air k) = s.air k) : s.mapAir k f = s := by
  have hair : s.dry.air.set k (s.air k) = s.dry.air := PerBay.ext_get fun j => by
    rw [PerBay.get_set]
    split
    next hj => subst hj; rfl
    next => rfl
  rw [mapAir_eq_set, h, hair]

theorem damperTravelEnd_due (hm : (s.air k).moving = true) (ht : (s.air k).travel = 0) :
    s.damperTravelEnd k = (s.mapAir k AirBay.travelEnd).reheaterFollow k (s.reheatReady k) :=
  if_pos (by rw [AirBay.travelDue, hm, ht]; rfl)

theorem mapAir_reheatReady (f : AirBay → AirBay) :
    (s.mapAir k f).reheatReady k = true ↔ s.arb.reheatOf k = some .on ∧ (f (s.air k)).damper = .opened := by
  rw [reheatReady_iff, mapAir_air, if_pos rfl, mapAir_arb]

theorem damperTravelEnd_closing (hd : (s.air k).damper = .closing) (ht : (s.air k).travel = 0) :
    s.damperTravelEnd k = s.mapAir k fun a => { a with damper := .closed, reheater := false } := by
  have hend : (s.air k).travelEnd = { s.air k with damper := .closed } := by rw [AirBay.travelEnd, hd]
  have hnot : ¬(s.mapAir k AirBay.travelEnd).reheatReady k = true := by
    rw [mapAir_reheatReady, hend]
    rintro ⟨-, h⟩
    cases h
  rw [damperTravelEnd_due (by simp [AirBay.moving, hd]) ht, reheaterFollow, if_neg hnot, mapAir_mapAir]
  exact mapAir_congr (by rw [Function.comp, hend])

/-- With reheat ON the reheater starts as the latest scan says, else it stays OFF (R121). -/
theorem damperTravelEnd_opening (hd : (s.air k).damper = .opening) (ht : (s.air k).travel = 0) :
    s.damperTravelEnd k = s.mapAir k fun a => { a with
      damper := .opened
      reheater := decide (s.arb.reheatOf k = some .on ∧ (s.chan (bayChannel k 0)).faulted = false ∧
        (s.chan (bayChannel k 0)).value < s.reheatTarget k - 5) } := by
  have hend : (s.air k).travelEnd = { s.air k with damper := .opened } := by rw [AirBay.travelEnd, hd]
  have hbefore : s.reheatReady k = false := by
    rw [Bool.eq_false_iff, Ne, reheatReady_iff, hd]
    rintro ⟨-, h⟩
    cases h
  have hready : (s.mapAir k AirBay.travelEnd).reheatReady k = true ↔ s.arb.reheatOf k = some .on := by
    rw [mapAir_reheatReady, hend]
    exact and_iff_left rfl
  rw [damperTravelEnd_due (by simp [AirBay.moving, hd]) ht, hbefore]
  unfold reheaterFollow
  by_cases hon : s.arb.reheatOf k = some .on
  · rw [if_pos (hready.mpr hon), if_neg Bool.false_ne_true, mapAir_mapAir]
    refine mapAir_congr ?_
    rw [Function.comp, hend]
    change ({ s.air k with
      damper := .opened
      reheater := reheatStart (s.chan (bayChannel k 0)).faulted (s.chan (bayChannel k 0)).value (s.reheatTarget k) } : AirBay) = _
    simp only [hon, true_and, reheatStart, Params.reheatBand, Bool.decide_and, Bool.decide_eq_false]
  · rw [if_neg (fun h => hon (hready.mp h)), mapAir_mapAir]
    refine mapAir_congr ?_
    rw [Function.comp, hend]
    simp only [hon, false_and, decide_false]

theorem scanReheat_eq (s : State) (k : Bay) : s.scanReheat k = if s.reheatReady k then s.mapAir k fun a => { a with
    reheater :=
      if (s.chan (bayChannel k 0)).faulted then false
      else if (s.chan (bayChannel k 0)).value < s.reheatTarget k - 5 then true
      else if s.reheatTarget k + 5 ≤ (s.chan (bayChannel k 0)).value then false
      else a.reheater } else s := rfl

end State

/-- Settles O45. -/
theorem theCompressorTimersAndTheDampersElapse : Obligations.TheCompressorTimersAndTheDampersElapse := by
  unfold Obligations.TheCompressorTimersAndTheDampersElapse
  refine ⟨fun s => ⟨fun hc hm => congrArg Host.Outcome.next (State.minOffExpiry_due hc hm),
      fun hc hm => congrArg Host.Outcome.next (State.minRunExpiry_due hc hm)⟩,
    fun a => ⟨AirBay.openDamper_closed, fun h => ⟨AirBay.openDamper_opened h, AirBay.closeDamper_opened h⟩, AirBay.closeDamper_closed⟩,
    fun k s ht => ⟨fun hd => congrArg Host.Outcome.next (State.damperTravelEnd_closing hd ht),
      fun hd => congrArg Host.Outcome.next (State.damperTravelEnd_opening hd ht)⟩,
    fun st d stopped hstopped => ⟨d.onGrant_eq st, fun remaining => ?_, ?_, fun remaining => rfl⟩,
    fun k s inlet hinlet => ⟨fun r hr => s.reheatTarget_eq k hr, s.reheatReady_iff k, ?_, rfl⟩⟩
  · subst hstopped
    exact d.onRelease_eq st remaining
  · subst hstopped
    exact d.forcedStop_eq st
  · subst hinlet
    exact s.scanReheat_eq k

end Sys2Proof.Machine

/-!
PROOFS. The tachometer and the stall reports: an edge against its reference (R125 to R127), silence, spin-up and what a report
does (R47, R126 to R128).
-/

namespace Sys2Proof.Machine

/-! ## The tachometer (R125 to R127) -/

/-- The time from the reference to the capture, modulo the width of the counter (R125). -/
theorem toNat_sub_period {capture ref : Word16} {period : Nat} (h : period = (capture.toNat + 65536 - ref.toNat) % 65536) :
    (capture - ref).toNat = period := by
  rw [BitVec.toNat_sub, h]
  have := ref.isLt
  omega

namespace AirBay

variable {a : AirBay}

theorem fanOn_iff : a.fanOn = true ↔ a.fanLevel ≠ 0 := by simp [fanOn]

theorem setFan_stays_off (h : a.fanLevel = 0) : a.setFan 0 = a := by
  rw [setFan, if_pos rfl, if_pos h, ← h]

theorem edge_off (capture : Word16) (h : a.fanLevel = 0) : a.edge capture = a :=
  if_neg fun hon => fanOn_iff.mp hon h

theorem edge_first (capture : Word16) (hon : a.fanLevel ≠ 0) (h : a.tacho.reference = none) :
    a.edge capture = a.acceptEdge capture none := by
  rw [edge, if_pos (fanOn_iff.mpr hon), h]

variable {capture ref : Word16} {period : Nat}

theorem edge_noise (hon : a.fanLevel ≠ 0) (h : a.tacho.reference = some ref)
    (hp : period = (capture.toNat + 65536 - ref.toNat) % 65536) (hlow : period < 200) : a.edge capture = a := by
  rw [edge, if_pos (fanOn_iff.mpr hon), h]
  exact if_pos (by rw [toNat_sub_period hp]; exact hlow)

theorem edge_accepted (hon : a.fanLevel ≠ 0) (h : a.tacho.reference = some ref)
    (hp : period = (capture.toNat + 65536 - ref.toNat) % 65536) (hhigh : 200 ≤ period) :
    a.edge capture = a.acceptEdge capture (some period) := by
  rw [edge, if_pos (fanOn_iff.mpr hon), h]
  dsimp only
  rw [toNat_sub_period hp]
  exact if_neg (Nat.not_lt.mpr hhigh)

end AirBay

/-- Settles O46. -/
theorem aTachometerEdgeIsJudgedByItsReference : Obligations.ATachometerEdgeIsJudgedByItsReference := by
  unfold Obligations.ATachometerEdgeIsJudgedByItsReference
  refine ⟨fun k f s => s.mapAir_eq_set k f, fun a level => ⟨AirBay.setFan_stays_off, a.setFan_off, a.setFan_on level, a.setFan_keeps level⟩,
    fun k capture s => ⟨fun hoff => congrArg Host.Outcome.next (State.mapAir_self (AirBay.edge_off capture hoff)), fun hon =>
      ⟨fun href => ?first, fun ref period href hp => ⟨fun hlow => ?noise, fun hhigh => ?accepted⟩⟩⟩⟩
  case first => exact congrArg Host.Outcome.next (State.mapAir_congr (AirBay.edge_first capture hon href))
  case noise => exact congrArg Host.Outcome.next (State.mapAir_self (AirBay.edge_noise hon href hp hlow))
  case accepted => exact congrArg Host.Outcome.next (State.mapAir_congr (AirBay.edge_accepted hon href hp hhigh))

/-! ## A stall is found and reported (R47, R127, R128) -/

namespace AirBay

variable {a : AirBay}

theorem silenceDue_iff : a.silenceDue = true ↔ a.fanLevel ≠ 0 ∧ 50 ≤ a.tacho.silence ∧
    (a.tacho.period ≠ none ∨ a.tacho.reference ≠ none ∨ a.tacho.spinUp = some 0 ∧ a.tacho.stalled = false) := by
  simp [silenceDue, fanOn, spunUp, Params.silenceTicks, Option.isSome_iff_ne_none, and_assoc, or_assoc]

theorem stallCondition_iff : a.stallCondition = true ↔ a.fanLevel ≠ 0 ∧ a.tacho.spinUp = some 0 ∧ 50 ≤ a.tacho.silence := by
  simp [stallCondition, fanOn, spunUp, Params.silenceTicks, and_assoc]

theorem spinUpDue_iff : a.spinUpDue = true ↔
    a.fanLevel ≠ 0 ∧ a.tacho.spinUp = some 0 ∧ 50 ≤ a.tacho.silence ∧ a.tacho.stalled = false := by
  simp [spinUpDue, stallCondition_iff, and_assoc]

/-- With the fan off or an edge since, neither row finds anything at the fan. -/
theorem nothing_found (h : a.fanLevel = 0 ∨ a.tacho.silence < 50) : a.silenceTimeout = a ∧ a.becomeStalled = a := by
  have hno (hs : a.fanLevel ≠ 0 ∧ 50 ≤ a.tacho.silence) : False := by
    obtain ⟨hon, hlong⟩ := hs
    rcases h with hoff | hshort
    · exact hon hoff
    · exact absurd hlong (Nat.not_le.mpr hshort)
  exact ⟨if_neg fun hd => hno ⟨(silenceDue_iff.mp hd).1, (silenceDue_iff.mp hd).2.1⟩,
    if_neg fun hd => hno ⟨(spinUpDue_iff.mp hd).1, (spinUpDue_iff.mp hd).2.2.1⟩⟩

variable (hon : a.fanLevel ≠ 0) (hs : a.tacho.silence = 50)
include hon hs

theorem silenceTimeout_invalidates (href : a.tacho.reference ≠ none) (hno : a.tacho.spinUp ≠ some 0 ∨ a.tacho.stalled = true) :
    a.silenceTimeout = { a with tacho := { a.tacho with reference := none, period := none } } := by
  have hstalled : (a.tacho.stalled || a.stallCondition) = a.tacho.stalled := by
    rcases hno with hspin | hst
    · rw [Bool.eq_false_iff.mpr fun h => hspin (stallCondition_iff.mp h).2.1, Bool.or_false]
    · rw [hst, Bool.true_or]
  rw [silenceTimeout, if_pos (silenceDue_iff.mpr ⟨hon, hs.ge, .inr (.inl href)⟩), hstalled]

variable (hspin : a.tacho.spinUp = some 0) (hst : a.tacho.stalled = false)
include hspin hst

theorem silenceTimeout_stalls : a.silenceTimeout =
    { a with tacho := { a.tacho with reference := none, period := none, stalled := true } } := by
  rw [silenceTimeout, if_pos (silenceDue_iff.mpr ⟨hon, hs.ge, .inr (.inr ⟨hspin, hst⟩)⟩),
    stallCondition_iff.mpr ⟨hon, hspin, hs.ge⟩, Bool.or_true]

theorem becomeStalled_stalls : a.becomeStalled = { a with tacho := { a.tacho with stalled := true } } :=
  if_pos (spinUpDue_iff.mpr ⟨hon, hspin, hs.ge, hst⟩)

end AirBay

namespace State

variable {s : State} {k : Bay}

theorem silenceTimeout_of (h : (s.air k).silenceDue = true ∨ (s.air k).reportDue = true) :
    s.silenceTimeout k = s.findStall k AirBay.silenceTimeout :=
  if_pos (Bool.or_eq_true_iff.mpr h)

theorem spinUpElapsed_of (h : (s.air k).spinUpDue = true ∨ (s.air k).reportDue = true) :
    s.spinUpElapsed k = s.findStall k AirBay.becomeStalled :=
  if_pos (Bool.or_eq_true_iff.mpr h)

/-- What a FAN_STALL report leaves of the event `t`, in which what is found has given `u`: nothing more where the bay is not
ACTIVE, the halt where it is. -/
def StallReported (s u t : State) (k : Bay) : Prop :=
  ((s.bay k).state ≠ .active → t = u) ∧
  ((s.bay k).state = .active → u.LetsGoThenSettles t k none (NoticeSet.addBay .halt k) ((s.bay k).halt .fanStall) (s.claims k))

theorem findStall_reported {found : AirBay → AirBay} {u : State} (hn : s.NothingOwed)
    (hu : u = s.mapAir k fun a => (found a).takeReport)
    (h : (s.air k).reportDue = true ∨ (found (s.air k)).tacho.stalled = true ∧ (s.air k).tacho.stalled = false) :
    s.StallReported u (s.findStall k found) k := by
  rw [findStall_reports s k found h, ← hu]
  have hbay : u.bay k = s.bay k := hu ▸ rfl
  have hclaims : u.claims k = s.claims k := hu ▸ rfl
  have hnot : u.arb.evalOwed = false := by rw [hu]; exact hn
  refine ⟨fun hs => ?_, fun hs => ?_⟩
  · rw [stallReport_ignored u k (hbay ▸ hs), settle_of_not_owed _ hnot]
  · have hl := stallReport_halts u k (hbay ▸ hs)
    rwa [hbay, hclaims] at hl

end State

/-- Settles O47. -/
theorem aSilentFanMayStallAndHaltItsBay : Obligations.ASilentFanMayStallAndHaltItsBay := by
  have hhalt (b : BayContext) : b.halt .fanStall = { b with
      state := .halted, outcome := .halted, fault := some .fanStall, overheatRun := 0, limitReached := false,
      waitReached := false } := BayContext.goto_halt .fanStall (by decide)
  have reported {k : Bay} {s u t : State} {i : Instr} (hexec : exec i s = .next t) (h : s.StallReported u t k) :
      ((s.bay k).state ≠ .active → exec i s = .next u) ∧
      ((s.bay k).state = .active → ∃ t, exec i s = .next t ∧
        u.LetsGoThenSettles t k none (NoticeSet.addBay .halt k) { s.bay k with
          state := .halted, outcome := .halted, fault := some .fanStall, overheatRun := 0, limitReached := false,
          waitReached := false } (s.claims k)) := by
    obtain ⟨hignored, hhalts⟩ := h
    exact ⟨fun hs => hignored hs ▸ hexec, fun hs => ⟨t, hexec, hhalt _ ▸ hhalts hs⟩⟩
  unfold Obligations.ASilentFanMayStallAndHaltItsBay
  refine ⟨fun k s u hn hon hs => ⟨fun href hno hrep => ?quiet, ?found⟩, fun k s u hn hrep hno hu => ?brought,
    fun k s => ⟨fun h => ?ignored, fun hst hs => ?halted⟩⟩
  case quiet =>
    have hinv := AirBay.silenceTimeout_invalidates hon hs href hno
    have hstalled : (s.air k).silenceTimeout.tacho.stalled = (s.air k).tacho.stalled := by rw [hinv]
    refine congrArg Host.Outcome.next ?_
    rw [State.silenceTimeout_of (.inl (AirBay.silenceDue_iff.mpr ⟨hon, hs.ge, .inr (.inl href)⟩)),
      State.findStall_quiet s k _ hrep (hstalled ▸ id)]
    exact State.mapAir_congr (by dsimp only; rw [hinv, AirBay.takeReport, hrep])
  case found =>
    rintro i (⟨rfl, hu⟩ | ⟨rfl, hu⟩) hspin hst
    · have hfound := AirBay.silenceTimeout_stalls hon hs hspin hst
      refine reported (t := s.silenceTimeout k) rfl ?_
      rw [State.silenceTimeout_of (.inl (AirBay.silenceDue_iff.mpr ⟨hon, hs.ge, .inr (.inr ⟨hspin, hst⟩)⟩))]
      exact State.findStall_reported hn (hu.trans (State.mapAir_congr (by dsimp only; rw [hfound, AirBay.takeReport])))
        (.inr ⟨by rw [hfound], hst⟩)
    · have hfound := AirBay.becomeStalled_stalls hon hs hspin hst
      refine reported (t := s.spinUpElapsed k) rfl ?_
      rw [State.spinUpElapsed_of (.inl (AirBay.spinUpDue_iff.mpr ⟨hon, hspin, hs.ge, hst⟩))]
      exact State.findStall_reported hn (hu.trans (State.mapAir_congr (by dsimp only; rw [hfound, AirBay.takeReport])))
        (.inr ⟨by rw [hfound], hst⟩)
  case brought =>
    obtain ⟨hsilence, hspin⟩ := AirBay.nothing_found hno
    rintro i (rfl | rfl)
    · refine reported (t := s.silenceTimeout k) rfl ?_
      rw [State.silenceTimeout_of (.inr hrep)]
      exact State.findStall_reported hn (hu.trans (State.mapAir_congr (by rw [hsilence, AirBay.takeReport]))) (.inl hrep)
    · refine reported (t := s.spinUpElapsed k) rfl ?_
      rw [State.spinUpElapsed_of (.inr hrep)]
      exact State.findStall_reported hn (hu.trans (State.mapAir_congr (by rw [hspin, AirBay.takeReport]))) (.inl hrep)
  case ignored =>
    unfold State.reportStall
    rcases h with hst | hs
    · rw [hst]
      rfl
    · split
      · exact State.stallReport_ignored s k hs
      · rfl
  case halted =>
    have hreport : s.reportStall k = s.haltBay k .fanStall := by
      rw [State.reportStall, if_pos hst, State.stallReport, if_pos hs]
    rw [hreport]
    exact ⟨State.haltBay_letsGo s k .fanStall, State.haltBay_owed s k .fanStall, (State.haltBay_bay s k .fanStall).trans (hhalt _)⟩

end Sys2Proof.Machine

/-!
PROOFS. The scanner: trims, the scan start and the codes (R131, R132, R139), the scan complete and its delivery (R132 to R137).
-/

namespace Sys2Proof.Machine

/-! ## SET_TRIM, SCAN_START and CONVERSION_END (R131, R132, R139) -/

theorem channelOfByte_of_le {b : Byte} (h : 19 ≤ b.toNat) : channelOfByte b = none := dif_neg (Nat.not_lt.mpr h)

theorem channelOfByte_eq {b : Byte} {n : ChannelNo} (h : b.toNat = n.val) : channelOfByte b = some n := by
  have hn : n.val < 19 := n.isLt
  rw [channelOfByte, dif_pos (by omega)]
  exact congrArg some (Fin.ext h)

namespace State

variable {s : State}

theorem exec_setTrim (channel trim : Byte) (ha : s.Accepts .service) :
    exec (.setTrim .service channel trim) s = .next (s.takeTrim .service channel trim) :=
  congrArg Host.Outcome.next (exec_service ha _ (by decide) rfl rfl (by decide))

theorem takeTrim_refused (p : Port) {channel : Byte} (trim : Byte) (h : 19 ≤ channel.toNat) :
    s.takeTrim p channel trim = s.reply p .badValue := by
  rw [takeTrim, channelOfByte_of_le h]

theorem takeTrim_taken (p : Port) {channel : Byte} (trim : Byte) {n : ChannelNo} (h : channel.toNat = n.val) :
    s.takeTrim p channel trim = (s.withChannel n fun c => { c with trim := max (-63) (min 63 trim.toInt) }).reply p .ok := by
  have hclamp : clampInt (-Params.trimLimit) Params.trimLimit (signedByte trim) = max (-63) (min 63 trim.toInt) :=
    clampInt_eq (by decide) _
  rw [takeTrim, channelOfByte_eq h, ← mapScan_setChannel, ← hclamp]
  rfl

theorem scanStart_due (h : 200 ≤ s.scan.phase) : s.scanStart = s.mapScan Scanner.start :=
  if_pos (decide_eq_true h)

end State

/-- Settles O48. -/
theorem theScannerTakesTrimsStartsAndCodes : Obligations.TheScannerTakesTrimsStartsAndCodes := by
  unfold Obligations.TheScannerTakesTrimsStartsAndCodes
  refine fun s => ⟨fun ha channel trim => ⟨fun h => ?refused, fun n h => ?taken⟩, fun hphase => ?start, fun code n hn hc => ?code⟩
  case refused => rw [State.exec_setTrim channel trim ha, State.takeTrim_refused .service trim h]
  case taken => rw [State.exec_setTrim channel trim ha, State.takeTrim_taken .service trim h]
  case start => exact congrArg Host.Outcome.next (State.scanStart_due hphase.ge)
  case code => exact congrArg Host.Outcome.next (State.endConversion_next s code n hn hc)

/-! ## The scan complete (R132 to R137) -/

theorem faultUpdate_changes (faulted : Bool) {run : Nat} (h : 2 ≤ run) : faultUpdate faulted run (!faulted) = (!faulted, 0) := by
  have hrun : Params.faultScans ≤ run + 1 := Nat.add_le_add_right h 1
  rw [faultUpdate, if_neg (Bool.not_ne_self faulted), if_pos hrun]

theorem Channel.complete_of_code (cls : ChannelClass) {c : Channel} {code : Code} (h : c.inFlight = some code) :
    c.complete cls = c.judge cls code := by
  rw [Channel.complete, h]

namespace Scanner

/-- Every channel is judged from its code of the scan, the last one arriving with the scan complete (R132, R133). -/
theorem endLast_eq {sc : Scanner} {code : Code} {codes : ChannelNo → Code} (hlast : codes 18 = code)
    (hcodes : ∀ n : ChannelNo, n ≠ 18 → sc.channels[n].inFlight = some (codes n)) :
    sc.endLast code = { sc with
      converting := none
      count := if 65535 ≤ sc.count then 1 else sc.count + 1
      channels := Vector.ofFn fun n => (sc.channels[n]).judge (classOf n) (codes n) } := by
  have hchannels : (sc.endLast code).channels = Vector.ofFn fun n => (sc.channels[n]).judge (classOf n) (codes n) := by
    refine ext_channels fun n => ?_
    rw [endLast_get]
    simp only [Fin.getElem_fin, Vector.getElem_ofFn]
    by_cases hn : n = condensateChannel
    · rw [if_pos hn, hn, ← hlast]
      rfl
    · rw [if_neg hn]
      exact Channel.complete_of_code _ (hcodes n hn)
  rw [← hchannels]
  rfl

end Scanner

namespace State

variable {s t u : State}

theorem exec_lastCode {i : Instr} {code : Code} (hi : i = .scanComplete code ∨ i = .conversionEnd code)
    (hc : s.scan.converting = some 18) : exec i s = .next (s.finishScan code) := by
  rcases hi with rfl | rfl
  · exact congrArg Host.Outcome.next (if_pos hc)
  · exact congrArg Host.Outcome.next (endConversion_last s code hc)

/-- What the delivery of a scan leaves as it is beside what an event may change: all but the inventory and the estimators. -/
def KeptByDelivery (s t : State) : Prop := t.stable = { s.stable with water := t.water, est := t.est }

theorem KeptByDelivery.of_stable {w : WaterInventory} {e : PerBay Estimator}
    (h : t.stable = { s.stable with water := w, est := e }) : s.KeptByDelivery t := by
  have hw : t.water = w := congrArg Stable.water h
  have he : t.est = e := congrArg Stable.est h
  rw [KeptByDelivery, hw, he]
  exact h

theorem KeptByDelivery.trans (h : s.KeptByDelivery t) (g : t.KeptByDelivery u) : s.KeptByDelivery u := by
  unfold KeptByDelivery at *
  rw [g, h]

theorem deliverScan_kept (s : State) : s.KeptByDelivery s.deliverScan := by
  have hplant : s.KeptByDelivery s.scanSteam.scanDrying.scanWater := .of_stable (w := _) (e := s.est) (by
    rw [scanWater_stable, scanDrying_stable, scanSteam_stable]
    rfl)
  have hbay (t : State) (k : Bay) : t.KeptByDelivery (t.scanOneBay k) := .of_stable (w := t.water) (t.scanOneBay_stable k)
  exact (((hplant.trans (hbay _ 0)).trans (hbay _ 1)).trans (hbay _ 2)).trans (hbay _ 3)

theorem scan_of_expiries {w : WaterInventory} {i : Inputs} (h : t.stable = { s.stable with water := w, inputs := i }) :
    t.scan = s.scan := congrArg Stable.scan h

theorem stable_withScan {w : WaterInventory} {i : Inputs} (c : Scanner)
    (h : t.stable = { s.stable with water := w, inputs := i }) :
    ({ t with scan := c } : State).stable = { s.stable with water := w, inputs := i, scan := c } :=
  congrArg (fun v : Stable => { v with scan := c }) h

/-- What a delivery leaves of the state `s` before the expiries: beside what an event may change, the scanner and the inputs are
those that it began with, and the library, the counter, the budget, the settings and the buses those of `s`. -/
theorem KeptByDelivery.fields {w : WaterInventory} {i : Inputs} {c : Scanner} (h : u.KeptByDelivery t)
    (hu : u.stable = { s.stable with water := w, inputs := i, scan := c }) :
    t.scan = c ∧ t.library = s.library ∧ t.inputs = i ∧ t.counter = s.counter ∧ t.arb.budget = s.arb.budget ∧
      t.arb.settings = s.arb.settings ∧ ∀ q, (t.port q).bus = (s.port q).bus := by
  have hall : t.stable = { s.stable with scan := c, water := t.water, est := t.est, inputs := i } := by
    unfold KeptByDelivery at h
    rw [h, hu]
  exact ⟨congrArg Stable.scan hall, congrArg Stable.library hall, congrArg Stable.inputs hall, congrArg Stable.counter hall,
    congrArg Stable.budget hall, congrArg Stable.settings hall, fun q => congrFun (congrArg Stable.bus hall) q⟩

theorem finishScan_eq {code : Code} {codes : ChannelNo → Code} (hlast : codes 18 = code)
    (hcodes : ∀ n : ChannelNo, n ≠ 18 → s.scan.channels[n].inFlight = some (codes n)) :
    s.finishScan code = State.deliverScan { s.takeExpiries with scan := { s.scan with
      converting := none
      count := if 65535 ≤ s.scan.count then 1 else s.scan.count + 1
      channels := Vector.ofFn fun n => (s.scan.channels[n]).judge (classOf n) (codes n) } } := by
  rw [finishScan, mapScan, scan_of_expiries s.takeExpiries_stable, Scanner.endLast_eq hlast hcodes]

end State

/-- Settles O49. -/
theorem aScanCompletesAndIsDelivered : Obligations.AScanCompletesAndIsDelivered := by
  unfold Obligations.AScanCompletesAndIsDelivered
  refine ⟨fun code codes i s d u hi hc hlast hcodes hd hu => ?complete, fun s => ⟨⟨_, (s.runsTo_expiryRows _).mpr rfl⟩, fun h => ?idle⟩,
    isRail_iff, fun faulted run => ⟨faultUpdate_agrees faulted run, faultUpdate_counts faulted run, faultUpdate_changes faulted⟩⟩
  case complete =>
    have hd' : d = s.takeExpiries := (s.runsTo_expiryRows d).mp hd
    have hexec : exec i s = .next u.deliverScan := by
      rw [State.exec_lastCode hi hc, State.finishScan_eq hlast hcodes, hu, hd']
      rfl
    have hds : d.stable = { s.stable with water := d.water, inputs := d.inputs } := hd' ▸ s.takeExpiries_stable
    have hus : u.stable = { s.stable with water := d.water, inputs := d.inputs, scan := u.scan } := by
      rw [hu]
      exact State.stable_withScan _ hds
    obtain ⟨hscan, hlib, hin, hcount, hbudget, hset, hbus⟩ := u.deliverScan_kept.fields hus
    exact ⟨u.deliverScan, hexec, hscan, hlib, hin, hcount, hbudget, hset, hbus, rfl⟩
  case idle => exact (s.runsTo_expiryRows s).mpr (State.takeExpiries_idle h).symm

end Sys2Proof.Machine

/-!
PROOFS. The estimators: the arithmetic of one sample with its ranges, and its use or refusal (R143, R144, R147 to R152).
-/

namespace Sys2Proof.Machine

/-! ## The arithmetic of a sample (R147 to R149) -/

theorem absHumidity_int (t rh : Int) : (absHumidity t rh : Int) = (max 0 (min 1000 rh) * density t + 500) / 1000 := by
  have hclamp : clampInt 0 1000 rh = max 0 (min 1000 rh) := clampInt_eq (by decide) rh
  have hnn : 0 ≤ max 0 (min 1000 rh) := le_max_left ..
  rw [absHumidity, hclamp]
  push_cast
  rw [Int.toNat_of_nonneg hnn]

theorem absHumidity_saturated (t : Int) : absHumidity t 1000 = density t := by
  change (1000 * density t + 500) / 1000 = density t
  omega

theorem absHumidity_dry (t : Int) : absHumidity t 0 = 0 := by
  change (0 * density t + 500) / 1000 = 0
  omega

theorem absHumidity_le (t rh : Int) : absHumidity t rh ≤ 423600 := by
  have hrh : (clampInt 0 1000 rh).toNat ≤ 1000 := by
    rw [clampInt_eq (by decide)]
    omega
  have hprod : (clampInt 0 1000 rh).toNat * density t ≤ 1000 * 423600 := Nat.mul_le_mul hrh (density_bounds t).2
  unfold absHumidity
  omega

theorem extraction_eq (ahIn ahOut volume : Nat) :
    extraction ahIn ahOut volume = if ahIn ≤ ahOut then ((((ahOut - ahIn) * volume + 500000) / 1000000 : Nat) : Int)
      else -((((ahIn - ahOut) * volume + 500000) / 1000000 : Nat) : Int) := by
  unfold extraction
  dsimp only
  by_cases h : ahIn ≤ ahOut
  · have hdelta : ((ahOut : Int) - ahIn).natAbs = ahOut - ahIn := by omega
    rw [if_pos h, if_neg (by omega), hdelta]
  · have hdelta : ((ahOut : Int) - ahIn).natAbs = ahIn - ahOut := by omega
    rw [if_neg h, if_pos (by omega), hdelta]

theorem extraction_bounds {ahIn ahOut volume : Nat} (hin : ahIn ≤ 423600) (hout : ahOut ≤ 423600) (hv : volume ≤ 400000) :
    -169440 ≤ extraction ahIn ahOut volume ∧ extraction ahIn ahOut volume ≤ 169440 := by
  have hmagnitude {d : Nat} (hd : d ≤ 423600) : (d * volume + 500000) / 1000000 ≤ 169440 := by
    have : d * volume ≤ 423600 * 400000 := Nat.mul_le_mul hd hv
    omega
  have hup := hmagnitude (d := ahOut - ahIn) (by omega)
  have hdown := hmagnitude (d := ahIn - ahOut) (by omega)
  rw [extraction_eq]
  split <;> omega

/-! ## The use of a sample (R143, R144, R150 to R152) -/

theorem Estimator.take_eq (w : Int) : Estimator.take w = fun e =>
    { m := max 0 (min 8000000 (e.m - w))
      window := (if 8 ≤ e.window.length then e.window.tail else e.window) ++ [w]
      valid := true } := by
  funext e
  have hclamp : clampInt 0 Params.maxM (e.m - w) = max 0 (min 8000000 (e.m - w)) := clampInt_eq (by decide) _
  rw [take, hclamp, List.drop_one]

namespace State

variable {s : State} {k : Bay}

theorem airCounted_iff (b : BayContext) :
    airCounted b = true ↔ b.state ∈ [.await, .active] ∨ b.state = .halted ∧ b.purgeRemaining ≠ none := by
  unfold airCounted
  cases b.state <;> simp [Option.isSome_iff_ne_none]

theorem bayChannelsGood_iff (s : State) (k : Bay) :
    s.bayChannelsGood k = true ↔ ∀ j : Fin 4, (s.chan (bayChannel k j)).faulted = false := by
  simp [bayChannelsGood, Fin.forall_fin_succ, and_assoc]

/-- The four conditions of R143, the fan period apart. -/
def sampleGood (s : State) (k : Bay) : Bool :=
  decide (((s.bay k).state ∈ [.await, .active] ∨ (s.bay k).state = .halted ∧ (s.bay k).purgeRemaining ≠ none) ∧
    0 < (s.air k).fanLevel ∧ ∀ j : Fin 4, (s.chan (bayChannel k j)).faulted = false)

theorem samplePeriod_eq (s : State) (k : Bay) :
    s.samplePeriod k = if s.sampleGood k then (s.air k).tacho.period else none := by
  have hgood : (airCounted (s.bay k) && (s.air k).fanOn && s.bayChannelsGood k) = s.sampleGood k := by
    rw [Bool.eq_iff_iff, Bool.and_eq_true, Bool.and_eq_true, airCounted_iff, AirBay.fanOn_iff, bayChannelsGood_iff,
      sampleGood, decide_eq_true_iff, Nat.pos_iff_ne_zero, and_assoc]
  rw [samplePeriod, hgood]

theorem scanEstimator_used {period : Nat} (h : s.samplePeriod k = some period) :
    s.scanEstimator k = s.mapEst k (Estimator.take
      (sampleExtraction (s.chan (bayChannel k 0)).value (s.chan (bayChannel k 1)).value
        (s.chan (bayChannel k 2)).value (s.chan (bayChannel k 3)).value (s.arb.settings.duct.get k) period)) := by
  rw [scanEstimator, h]

theorem scanEstimator_refused (h : s.samplePeriod k = none) : s.scanEstimator k = s.mapEst k Estimator.refuse := by
  rw [scanEstimator, h]

end State

/-- Settles O52. -/
theorem aSampleIsUsedOrRefused : Obligations.ASampleIsUsedOrRefused := by
  unfold Obligations.ASampleIsUsedOrRefused
  refine ⟨⟨fun t rh => ⟨absHumidity_int t rh, absHumidity_saturated t, absHumidity_dry t, absHumidity_le t rh⟩,
    fun _ _ _ => rfl, by decide, by decide, extraction_eq, fun _ _ _ => extraction_bounds, fun _ _ _ _ _ _ => rfl⟩,
    fun _ _ _ => rfl, fun k good s hgood => ?_⟩
  replace hgood : good = s.sampleGood k := hgood
  have hperiod := s.samplePeriod_eq k
  rw [← hgood] at hperiod
  refine ⟨fun period w hg hp hw => ?used, fun hno => ?refused⟩
  case used =>
    rw [hg, if_pos rfl, hp] at hperiod
    rw [State.scanEstimator_used hperiod, ← hw, Estimator.take_eq]
  case refused =>
    have hnone : s.samplePeriod k = none := by
      rcases hno with hg | hp
      · rw [hperiod, hg, if_neg Bool.false_ne_true]
      · rw [hperiod, hp, ite_self]
    exact State.scanEstimator_refused hnone

end Sys2Proof.Machine

/-!
PROOFS. The water inventory: its latches and its pump, what they report (R70, R71, R159 to R164), and the progress check (R165, R166).
-/

namespace Sys2Proof.Machine

/-! ## The latches (R160, R162) -/

theorem reservoirLatch_iff (st : Settings) (latch faulted : Bool) (level : Int) : reservoirLatch st latch faulted level = true ↔
    faulted = true ∨ level < (if latch then (st.reservoirResume : Int) else st.reservoirLow) := by
  unfold reservoirLatch
  cases faulted <;> cases latch <;> simp

theorem condensateLatch_iff (st : Settings) (latch drainFault faulted : Bool) (level : Int) :
    condensateLatch st latch drainFault faulted level = true ↔ drainFault = true ∨ faulted = true ∨
      (if latch then (st.condensateResume : Int) else st.condensateFull) ≤ level := by
  unfold condensateLatch
  cases drainFault
  · cases faulted <;> cases latch <;> simp
  · simp

/-! ## The pump (R164) -/

namespace WaterInventory

variable {st : Settings} {faulted : Bool} {level : Int} {w : WaterInventory}

/-- The judgement of the pump leaves the levels and the latches alone. -/
theorem judgePump_rest (st : Settings) (faulted : Bool) (level : Int) (w : WaterInventory) :
    { w.judgePump st faulted level with pump := w.pump, drainStart := w.drainStart, drainRun := w.drainRun } = w := by
  unfold judgePump
  split
  next =>
    split
    next => split <;> rfl
    next => split <;> rfl
    next => rfl
  next => rfl

/-- The levels taken and the latches judged, the pump still to be (R159, R160, R162). -/
def judged (st : Settings) (reservoir condensate : Channel) (w : WaterInventory) : WaterInventory :=
  { w with
    reservoirLevel := reservoir.value
    condensateLevel := condensate.value
    reservoirLow := reservoirLatch st w.reservoirLow reservoir.faulted reservoir.value
    condensateFull := condensateLatch st w.condensateFull w.drainFault condensate.faulted condensate.value }

theorem scan_eq (st : Settings) (r c : Channel) (w : WaterInventory) :
    w.scan st r c = (w.judged st r c).judgePump st c.faulted c.value := rfl

theorem scan_rest (w : WaterInventory) (st : Settings) (r c : Channel) :
    (w.scan st r c).reservoirLevel = r.value ∧ (w.scan st r c).condensateLevel = c.value ∧
      (w.scan st r c).drainFault = w.drainFault ∧
      (w.scan st r c).reservoirLow = reservoirLatch st w.reservoirLow r.faulted r.value ∧
      (w.scan st r c).condensateFull = condensateLatch st w.condensateFull w.drainFault c.faulted c.value := by
  have hrest := judgePump_rest st c.faulted c.value (w.judged st r c)
  exact ⟨(congrArg reservoirLevel hrest :), (congrArg condensateLevel hrest :), (congrArg drainFault hrest :),
    (congrArg reservoirLow hrest :), (congrArg condensateFull hrest :)⟩

theorem judgePump_unjudged (h : st.drainFitted = false ∨ faulted = true ∨ w.pump = .fault) : w.judgePump st faulted level = w := by
  unfold judgePump
  split
  next hfit =>
    obtain ⟨hdrain, hgood⟩ := Bool.and_eq_true_iff.mp hfit
    rcases h with h | h | h
    · exact absurd hdrain (by simp [h])
    · exact absurd hgood (by simp [h])
    · rw [h]
  next => rfl

variable (hfit : st.drainFitted = true) (hgood : faulted = false)
include hfit hgood

theorem judgePump_off (h : w.pump = .off) :
    w.judgePump st faulted level = if (st.drainOn : Int) ≤ level then w.runFrom level else w := by
  rw [judgePump, if_pos (by rw [hfit, hgood]; rfl), h]

theorem judgePump_running (h : w.pump = .running) :
    w.judgePump st faulted level = if level ≤ st.drainOff then w.pumpOff else w := by
  rw [judgePump, if_pos (by rw [hfit, hgood]; rfl), h]

end WaterInventory

namespace State

variable {s : State}

/-! ## The reports of the latches (R70, R71, R161, R163) -/

theorem mapArb_owe_owe (s : State) : (s.mapArb Arbiter.owe).mapArb Arbiter.owe = s.mapArb Arbiter.owe := rfl

theorem settle_owed (s : State) : (s.mapArb Arbiter.owe).settle = s.evaluate := s.oweAndSettle_eq

theorem postRequest_owe (s : State) (k : Bay) :
    (s.mapArb Arbiter.owe).postRequest k = (s.postRequest k).mapArb Arbiter.owe := by
  have hstep : ((s.mapArb Arbiter.owe).bay k).currentStep = (s.bay k).currentStep := rfl
  rw [postRequest, postRequest, hstep]
  cases (s.bay k).currentStep with
  | none => rfl
  | some r =>
    dsimp only
    cases r.kind.resource with
    | none => rfl
    | some q => cases q <;> rfl

/-- An evaluation already owed makes no difference to a revocation, which owes one itself. -/
theorem revokeDry_owe (s : State) (k : Bay) : (s.mapArb Arbiter.owe).revokeDry k = (s.revokeDry k).mapArb Arbiter.owe := by
  have hpost := postRequest_owe (((s.cutDry k).mapBay k fun b => { (b.goto .await) with waitElapsed := 0 }).handDemands k) k
  have hraise := congrArg (fun t : State => (t.mapArb Arbiter.owe).raiseBay .grant k) hpost
  exact hraise

theorem revokeSlot_owe (s : State) (d : Option DrySlot) :
    (s.mapArb Arbiter.owe).revokeSlot d = (s.revokeSlot d).mapArb Arbiter.owe := by
  cases d with
  | none => rfl
  | some d => exact revokeDry_owe s d.bay

/-- All drying ends: both DRY grants are revoked and the compressor stops at once (R71, R163). -/
def stopDrying (s : State) : State := ((s.revokeSlot s.arb.slotA).revokeSlot s.arb.slotB).forceStop

theorem onTankFull_owe (s : State) : (s.mapArb Arbiter.owe).onTankFull = s.onTankFull := by
  have hslots : ((s.mapArb Arbiter.owe).revokeSlot s.arb.slotA).revokeSlot s.arb.slotB =
      ((s.revokeSlot s.arb.slotA).revokeSlot s.arb.slotB).mapArb Arbiter.owe := by
    rw [revokeSlot_owe, revokeSlot_owe]
  have htold := congrArg (fun t : State => (t.forceStop.mapArb Arbiter.owe).raisePlant .tankFull) hslots
  exact htold

theorem slotWithout_cases (k : Bay) (d : Option DrySlot) : Arbiter.slotWithout k d = none ∨ Arbiter.slotWithout k d = d := by
  unfold Arbiter.slotWithout
  split
  · exact .inl rfl
  · exact .inr rfl

theorem slotWithout_bay (d : DrySlot) : Arbiter.slotWithout d.bay (some d) = none := by
  simp [Arbiter.slotWithout, Arbiter.slotHeldBy]

/-- A slot that has been cleared stays so, whatever is then revoked. -/
theorem revokeSlot_empty (d : Option DrySlot) :
    (s.arb.slotA = none → (s.revokeSlot d).arb.slotA = none) ∧ (s.arb.slotB = none → (s.revokeSlot d).arb.slotB = none) := by
  cases d with
  | none => exact ⟨id, id⟩
  | some d =>
    obtain ⟨hA, hB⟩ := revokeDry_slots s d.bay
    exact ⟨fun h => hA.trans (by rw [h]; rfl), fun h => hB.trans (by rw [h]; rfl)⟩

/-- The holder of a slot revoked, the slot is free. -/
theorem revokeSlot_frees (d : Option DrySlot) :
    (s.arb.slotA = d → (s.revokeSlot d).arb.slotA = none) ∧ (s.arb.slotB = d → (s.revokeSlot d).arb.slotB = none) := by
  cases d with
  | none => exact ⟨id, id⟩
  | some d =>
    obtain ⟨hA, hB⟩ := revokeDry_slots s d.bay
    exact ⟨fun h => hA.trans (h ▸ slotWithout_bay d), fun h => hB.trans (h ▸ slotWithout_bay d)⟩

theorem revokeSlot_slotB_cases (d : Option DrySlot) :
    (s.revokeSlot d).arb.slotB = none ∨ (s.revokeSlot d).arb.slotB = s.arb.slotB := by
  cases d with
  | none => exact .inr rfl
  | some d =>
    obtain ⟨-, hB⟩ := revokeDry_slots s d.bay
    rw [show (s.revokeSlot (some d)).arb.slotB = _ from hB]
    exact slotWithout_cases ..

theorem stopDrying_ends (s : State) : s.stopDrying.arb.slotA = none ∧ s.stopDrying.arb.slotB = none ∧ s.stopDrying.dry.comp = .off := by
  have hA := (revokeSlot_frees (s := s) s.arb.slotA).1 rfl
  have hB : ((s.revokeSlot s.arb.slotA).revokeSlot s.arb.slotB).arb.slotB = none := by
    rcases revokeSlot_slotB_cases (s := s) s.arb.slotA with h | h
    · exact (revokeSlot_empty s.arb.slotB).2 h
    · exact (revokeSlot_frees s.arb.slotB).2 h
  exact ⟨(revokeSlot_empty s.arb.slotB).1 hA, hB, forcedStop_comp _ _⟩

/-- The revocations and the stop written out one after another. -/
theorem stopDrying_of {a b c d : State} (hA : a.arb.slotA = s.arb.slotA) (hB : a.arb.slotB = s.arb.slotB)
    (hb : b = a.revokeSlot s.arb.slotA) (hc : c = b.revokeSlot s.arb.slotB)
    (hd : d = { c with
      dry := c.dry.forcedStop c.arb.settings
      arb := { c.arb with committed := c.arb.draw (c.dry.forcedStop c.arb.settings).comp } }) : d = a.stopDrying := by
  rw [hd, hc, hb, stopDrying, hA, hB]
  rfl

theorem settle_onTankFull (s : State) : s.onTankFull.settle = (s.stopDrying.raisePlant .tankFull).evaluate :=
  (s.stopDrying.raisePlant .tankFull).settle_owed

/-- WATER_LOW is raised where the low latch has set (R70, R161). -/
def warnLow (before : Bool) (s : State) : State :=
  if s.water.reservoirLow = true ∧ before = false then s.raisePlant .waterLow else s

variable {before : Bool}

theorem warnLow_water (before : Bool) (s : State) : (s.warnLow before).water = s.water := by
  unfold warnLow
  split <;> rfl

theorem warnLow_arb (before : Bool) (s : State) : (s.warnLow before).arb = s.arb := by
  unfold warnLow
  split <;> rfl

theorem reportReservoir_same (h : s.water.reservoirLow = before) :
    s.reportReservoir before = s ∧ s.warnLow before = s := by
  refine ⟨if_pos h, if_neg ?_⟩
  rintro ⟨hlow, hno⟩
  rw [hlow, hno] at h
  cases h

theorem reportReservoir_changed (h : s.water.reservoirLow ≠ before) :
    s.reportReservoir before = (s.warnLow before).mapArb Arbiter.owe := by
  rw [reportReservoir, if_neg h, warnLow]
  cases hlow : s.water.reservoirLow
  · rw [if_neg Bool.false_ne_true, if_neg (by simp)]
  · have hno : before = false := by
      rw [hlow] at h
      exact Bool.eq_false_iff.mpr h.symm
    rw [if_pos rfl, if_pos ⟨rfl, hno⟩]
    rfl

theorem reportReservoir_cases (before : Bool) (s : State) : s.reportReservoir before = s.warnLow before ∨
    s.reportReservoir before = (s.warnLow before).mapArb Arbiter.owe := by
  by_cases h : s.water.reservoirLow = before
  · obtain ⟨hreport, hwarn⟩ := reportReservoir_same h
    exact .inl (hreport.trans hwarn.symm)
  · exact .inr (reportReservoir_changed h)

theorem reportReservoir_water (before : Bool) (s : State) : (s.reportReservoir before).water = s.water := by
  rcases reportReservoir_cases before s with h | h
  · rw [h, warnLow_water]
  · rw [h]
    exact warnLow_water before s

theorem reportReservoir_owe (before : Bool) (s : State) :
    (s.reportReservoir before).mapArb Arbiter.owe = (s.warnLow before).mapArb Arbiter.owe := by
  rcases reportReservoir_cases before s with h | h
  · rw [h]
  · rw [h, mapArb_owe_owe]

theorem reportReservoir_onTankFull (before : Bool) (s : State) : (s.reportReservoir before).onTankFull = (s.warnLow before).onTankFull := by
  rw [← onTankFull_owe, reportReservoir_owe, onTankFull_owe]

theorem reportCondensate_same (h : s.water.condensateFull = before) : s.reportCondensate before = s := if_pos h

theorem reportCondensate_sets (h : s.water.condensateFull = true) (hno : before = false) : s.reportCondensate before = s.onTankFull := by
  rw [reportCondensate, if_neg (by rw [h, hno]; decide), if_pos h]

theorem reportCondensate_clears (h : s.water.condensateFull = false) (hyes : before = true) :
    s.reportCondensate before = s.mapArb Arbiter.owe := by
  rw [reportCondensate, if_neg (by rw [h, hyes]; decide), if_neg (by rw [h]; decide)]

/-! ## The inventory's part of a scan (R159) -/

section

variable {v : WaterInventory}
  (hv : v = s.water.scan s.arb.settings (s.chan reservoirChannel) (s.chan condensateChannel))
include hv

theorem scanWater_eq : s.scanWater =
    (({ s with water := v }.reportReservoir s.water.reservoirLow).reportCondensate s.water.condensateFull).settle :=
  hv ▸ rfl

theorem scanWater_quiet (hlow : v.reservoirLow = s.water.reservoirLow) (hfull : v.condensateFull = s.water.condensateFull)
    (hn : s.NothingOwed) : s.scanWater = { s with water := v } := by
  obtain ⟨hreport, -⟩ := reportReservoir_same (s := { s with water := v }) hlow
  rw [scanWater_eq hv, hreport, reportCondensate_same (s := { s with water := v }) hfull]
  exact settle_of_not_owed _ hn

theorem scanWater_changed (h : v.reservoirLow ≠ s.water.reservoirLow ∨ v.condensateFull ≠ s.water.condensateFull)
    (hnot : v.condensateFull = false ∨ s.water.condensateFull = true) :
    s.scanWater = (State.warnLow s.water.reservoirLow { s with water := v }).evaluate := by
  have hwater := reportReservoir_water s.water.reservoirLow { s with water := v }
  rw [scanWater_eq hv, ← settle_owed]
  by_cases hsame : v.condensateFull = s.water.condensateFull
  · rw [reportCondensate_same ((congrArg WaterInventory.condensateFull hwater).trans hsame),
      reportReservoir_changed (h.resolve_right (not_not_intro hsame))]
  · have hclears : v.condensateFull = false ∧ s.water.condensateFull = true := by
      revert hsame hnot
      cases v.condensateFull <;> cases s.water.condensateFull <;> decide
    rw [reportCondensate_clears ((congrArg WaterInventory.condensateFull hwater).trans hclears.1) hclears.2, reportReservoir_owe]

theorem scanWater_full (hset : v.condensateFull = true) (hno : s.water.condensateFull = false) :
    s.scanWater = ((State.warnLow s.water.reservoirLow { s with water := v }).stopDrying.raisePlant .tankFull).evaluate := by
  have hwater := reportReservoir_water s.water.reservoirLow { s with water := v }
  rw [scanWater_eq hv, reportCondensate_sets ((congrArg WaterInventory.condensateFull hwater).trans hset) hno,
    reportReservoir_onTankFull, settle_onTankFull]

end

end State

/-- Settles O53. -/
theorem theWaterInventoryJudgesItsLatchesAndPump : Obligations.TheWaterInventoryJudgesItsLatchesAndPump := by
  unfold Obligations.TheWaterInventoryJudgesItsLatchesAndPump
  refine ⟨fun st r c w v hv => ?own, fun s a b c d v hv => ⟨State.scanWater_quiet hv, fun h ha => ?reports⟩⟩
  case own =>
    obtain ⟨hrlevel, hclevel, hfault, hlow, hfull⟩ := w.scan_rest st r c
    rw [← hv] at hrlevel hclevel hfault hlow hfull
    refine ⟨hrlevel, hclevel, hfault, hlow ▸ reservoirLatch_iff .., hfull ▸ condensateLatch_iff .., fun h => ?unjudged,
      fun hfit hgood => ⟨fun hoff hon => ?starts, fun hoff hlow => ?rests, fun hrun hlow => ?stops, fun hrun hhigh => ?runs⟩⟩
    all_goals rw [hv, WaterInventory.scan_eq]
    case unjudged =>
      rw [WaterInventory.judgePump_unjudged (w := w.judged st r c) h]
      exact ⟨rfl, rfl, rfl⟩
    case starts =>
      rw [WaterInventory.judgePump_off (w := w.judged st r c) hfit hgood hoff, if_pos hon]
      exact ⟨rfl, rfl, rfl⟩
    case rests =>
      rw [WaterInventory.judgePump_off (w := w.judged st r c) hfit hgood hoff, if_neg (Int.not_le.mpr hlow)]
      exact hoff
    case stops =>
      rw [WaterInventory.judgePump_running (w := w.judged st r c) hfit hgood hrun, if_pos hlow]
      exact ⟨rfl, rfl, rfl⟩
    case runs =>
      rw [WaterInventory.judgePump_running (w := w.judged st r c) hfit hgood hrun, if_neg (Int.not_le.mpr hhigh)]
      exact ⟨hrun, rfl, rfl⟩
  case reports =>
    have ha' : a = State.warnLow s.water.reservoirLow { s with water := v } := ha
    refine ⟨fun hnot => ha' ▸ State.scanWater_changed hv h hnot, fun hset hno hb hc hd => ?_⟩
    have harb : a.arb = s.arb := ha' ▸ State.warnLow_arb ..
    have hstop : d = a.stopDrying := State.stopDrying_of (congrArg Arbiter.slotA harb) (congrArg Arbiter.slotB harb) hb hc hd
    rw [hstop]
    exact ⟨ha' ▸ State.scanWater_full hv hset hno, fun _ => a.stopDrying_ends⟩

end Sys2Proof.Machine

/-!
PROOFS. The progress check of the drain (R62, R68, R71, R163, R165, R166).
-/

namespace Sys2Proof.Machine

/-- A new window of a run that goes on (R165). -/
theorem WaterInventory.runFrom_running {w : WaterInventory} (h : w.pump = .running) (level : Int) :
    w.runFrom level = { w with drainStart := some level, drainRun := some 0 } := by
  rw [runFrom, ← h]

namespace State

variable {s t : State}

theorem dryHolders_eq_zero (a : Arbiter) : a.dryHolders = 0 ↔ a.slotA = none ∧ a.slotB = none := by
  rw [a.dryHolders_eq]
  by_cases hA : a.slotA = none <;> by_cases hB : a.slotB = none <;> simp [hA, hB]

/-- With the condensate full an evaluation serves no bay with DRY: free slots stay free, a stopped compressor stays stopped (R60). -/
theorem OnlyGrants.noDry (h : s.OnlyGrants t) (hfull : s.water.condensateFull = true) (hA : s.arb.slotA = none)
    (hB : s.arb.slotB = none) : t.arb.slotA = none ∧ t.arb.slotB = none ∧ t.dry.comp = s.dry.comp := by
  have hholders : t.arb.dryHolders = s.arb.dryHolders := by
    by_contra hne
    exact absurd (h.newSlot hne).2 (by rw [hfull]; decide)
  obtain ⟨hfreeA, hfreeB⟩ := (dryHolders_eq_zero t.arb).mp (hholders.trans ((dryHolders_eq_zero s.arb).mpr ⟨hA, hB⟩))
  have hcomp : ({ t.dry with air := s.dry.air } : DryingCircuit).comp = s.dry.comp := congrArg DryingCircuit.comp (h.dry hholders)
  exact ⟨hfreeA, hfreeB, hcomp⟩

theorem water_of_stable {w : WaterInventory} (h : t.stable = { s.stable with water := w }) : t.water = w :=
  congrArg Stable.water h

theorem drainProgressCheck_due (hp : s.water.pump = .running) (hr : s.water.drainRun = some 12000) :
    exec .drainProgressCheck s = .next s.drainCheck :=
  congrArg Host.Outcome.next (if_pos (by simp [WaterInventory.checkDue, hp, hr, Params.drainTicks]))

theorem drainCheck_passes {start : Int} (h : s.water.drainStart = some start) (hlow : s.water.condensateLevel ≤ start - 50) :
    s.drainCheck = s.mapWater (WaterInventory.runFrom s.water.condensateLevel) :=
  if_pos (by rw [WaterInventory.checkPasses, h]; exact decide_eq_true hlow)

theorem drainCheck_fails {start : Int} (h : s.water.drainStart = some start) (hhigh : start - 50 < s.water.condensateLevel) :
    s.drainCheck = (((s.mapWater WaterInventory.drainFails).reportCondensate s.water.condensateFull).raisePlant .trip).settle :=
  if_neg (by
    rw [WaterInventory.checkPasses, h]
    exact fun hpass => Int.not_le.mpr hhigh (of_decide_eq_true hpass))

/-- A drain fault under a full latch that stands: TRIP is all that is raised. -/
theorem drainFault_full (hn : s.NothingOwed) (hfull : s.water.condensateFull = true) :
    (((s.mapWater WaterInventory.drainFails).reportCondensate s.water.condensateFull).raisePlant .trip).settle =
      (s.mapWater WaterInventory.drainFails).raisePlant .trip := by
  rw [reportCondensate_same hfull.symm]
  exact settle_of_not_owed _ hn

/-- A drain fault that forces the full latch ends all drying (R166). -/
theorem drainFault_forces (hno : s.water.condensateFull = false) :
    (((s.mapWater WaterInventory.drainFails).reportCondensate s.water.condensateFull).raisePlant .trip).settle =
      (((s.mapWater WaterInventory.drainFails).stopDrying.raisePlant .tankFull).raisePlant .trip).evaluate := by
  rw [reportCondensate_sets rfl hno]
  exact (((s.mapWater WaterInventory.drainFails).stopDrying.raisePlant .tankFull).raisePlant .trip).settle_owed

theorem stopDrying_water (s : State) : s.stopDrying.water = s.water := by
  have hstable : s.stopDrying.stable = s.stable := by simp [stopDrying]
  exact congrArg Stable.water hstable

theorem raisePlant_trip_trip (s : State) (q : Port) : ((s.raisePlant .trip).port q).notices.trip = true := by
  rw [(raisePlant_trip_port s q).2]

theorem raisePlant_tankFull_tankFull (s : State) (q : Port) :
    (((s.raisePlant .tankFull).raisePlant .trip).port q).notices.tankFull = true := by
  rw [(raisePlant_trip_port _ q).2, raisePlant_notices, if_neg (by rintro ⟨h, -⟩; cases h)]
  rfl

theorem evaluate_notices (s : State) (q : Port) :
    (s.evaluate.port q).notices = { (s.port q).notices with grant := (s.evaluate.port q).notices.grant } :=
  (evaluate_onlyGrants s).notices q

end State

/-- Settles O54. -/
theorem theProgressCheckPassesOrFaults : Obligations.TheProgressCheckPassesOrFaults := by
  unfold Obligations.TheProgressCheckPassesOrFaults
  intro start s a b c d hn hp hr hs
  have hexec := State.drainProgressCheck_due hp hr
  refine ⟨fun hlow => ?passes, fun hhigh => ?fails⟩
  case passes =>
    rw [hexec, State.drainCheck_passes hs hlow, State.mapWater, WaterInventory.runFrom_running hp]
  case fails =>
    have hcheck := State.drainCheck_fails hs hhigh
    have hstable : s.drainCheck.stable = { s.stable with water := s.water.drainFails } := by
      rw [hcheck, State.settle_stable, State.raisePlant_stable, State.reportCondensate_stable]
      rfl
    have hwater : s.drainCheck.water = s.water.drainFails := State.water_of_stable hstable
    refine ⟨s.drainCheck, hexec, hwater, ?kept, fun q => ?trip, fun hfull => ?full, fun hno => ?forced⟩
    case kept =>
      rw [hstable]
      rfl
    case trip =>
      cases hfull : s.water.condensateFull with
      | true => rw [hcheck, State.drainFault_full hn hfull, State.raisePlant_trip_trip]
      | false => rw [hcheck, State.drainFault_forces hfull, State.evaluate_notices, State.raisePlant_trip_trip]
    case full =>
      have ht : s.drainCheck = (s.mapWater WaterInventory.drainFails).raisePlant .trip := hcheck.trans (State.drainFault_full hn hfull)
      rw [ht]
      exact ⟨rfl, rfl, fun q => State.raisePlant_trip_port _ q⟩
    case forced =>
      have ht : s.drainCheck = _ := hcheck.trans (State.drainFault_forces hno)
      have hends := (s.mapWater WaterInventory.drainFails).stopDrying_ends
      obtain ⟨hA, hB, hoff⟩ := hends
      have hstopped : (s.mapWater WaterInventory.drainFails).stopDrying.water.condensateFull = true :=
        congrArg WaterInventory.condensateFull (State.stopDrying_water _)
      obtain ⟨hA', hB', hoff'⟩ := (State.evaluate_onlyGrants
        (((s.mapWater WaterInventory.drainFails).stopDrying.raisePlant .tankFull).raisePlant .trip)).noDry hstopped hA hB
      refine ⟨?_, fun ha hb hc hd => ?_⟩
      · rw [ht]
        exact ⟨hA', hB', hoff'.trans hoff, fun q => by rw [State.evaluate_notices, State.raisePlant_tankFull_tankFull]⟩
      · have ha' : a = s.mapWater WaterInventory.drainFails := by rw [ha, hwater, State.mapWater]
        have hstop : d = a.stopDrying := State.stopDrying_of (by rw [ha]) (by rw [ha]) hb hc hd
        rw [ht, hstop, ha']

end Sys2Proof.Machine

/-!
PROOFS. When each timer has run out, and the rows that come while it has not (R26, R31, R45, R54, R101, R102, R105, R107, R113,
R115, R120, R126, R127, R131, R165).
-/

namespace Sys2Proof.Machine

/-! ## When each timer has run out -/

namespace SteamUnit

variable {u : SteamUnit}

theorem dwellDue_iff : u.dwellDue = true ↔ u.dwellBay ≠ none ∧ u.dwellRemaining = 0 := by
  simp [dwellDue, Option.isSome_iff_ne_none]

theorem warmHoldDue_iff : u.warmHoldDue = true ↔ u.gen = .warmHold ∧ u.warmHold = some 0 := by
  simp [warmHoldDue]

end SteamUnit

namespace DryingCircuit

variable {d : DryingCircuit}

theorem minOffDue_iff : d.minOffDue = true ↔ d.comp = .startWait ∧ d.minOff = 0 := by simp [minOffDue]

theorem minRunDue_iff : d.minRunDue = true ↔ d.comp = .tail ∧ d.minRun = some 0 := by simp [minRunDue]

end DryingCircuit

theorem WaterInventory.checkDue_iff {w : WaterInventory} : w.checkDue = true ↔ w.pump = .running ∧ w.drainRun = some 12000 := by
  simp [checkDue, Params.drainTicks]

theorem Scanner.startDue_iff {c : Scanner} : c.startDue = true ↔ 200 ≤ c.phase := decide_eq_true_iff

theorem AirBay.travelDue_iff {a : AirBay} : a.travelDue = true ↔ (a.damper = .opening ∨ a.damper = .closing) ∧ a.travel = 0 := by
  simp [travelDue, moving]

namespace BayContext

variable {b : BayContext}

theorem limitDue_iff : b.limitDue = true ↔ b.state = .active ∧ b.limitReached = true := by simp [limitDue]

theorem waitDue_iff : b.waitDue = true ↔ b.state = .await ∧ b.waitReached = true := by simp [waitDue]

theorem purgeDue_iff : b.purgeDue = true ↔ b.state = .halted ∧ b.purgeRemaining = some 0 := by simp [purgeDue]

end BayContext

/-! ## The rows whose event is not due (log 2, log 7) -/

namespace State

variable {s : State} {k : Bay}

theorem doorOpening_opened (h : (s.bay k).door = .opened) : s.doorOpening k = s := if_neg (by rw [h]; decide)

theorem doorClosing_shut (h : (s.bay k).door = .shut) : s.doorClosing k = s := if_neg (by rw [h]; decide)

theorem lowProbeDry_dry (h : s.steam.lowProbe = .dry) : s.lowProbeDry = s := if_neg (by rw [h]; decide)

theorem lowProbeWet_wet (h : s.steam.lowProbe = .wet) : s.lowProbeWet = s := if_neg (by rw [h]; decide)

theorem highProbeWet_wet (h : s.steam.highProbe = .wet) : s.highProbeWet = s := if_neg (by rw [h]; decide)

theorem highProbeDry_dry (h : s.steam.highProbe = .dry) : s.highProbeDry = s := if_neg (by rw [h]; decide)

end State

/-- Settles O56. -/
theorem anEventThatIsNotDueChangesNothing : Obligations.AnEventThatIsNotDueChangesNothing := by
  have unchanged {s t : State} {i : Instr} (hexec : exec i s = .next t) (h : t = s) : exec i s = .next s := h ▸ hexec
  unfold Obligations.AnEventThatIsNotDueChangesNothing
  refine ⟨fun u d w c a b => ⟨u.fillDue_iff.trans and_comm, u.dryFireDue_iff.trans and_left_comm, SteamUnit.dwellDue_iff,
    SteamUnit.warmHoldDue_iff, DryingCircuit.minOffDue_iff, DryingCircuit.minRunDue_iff, WaterInventory.checkDue_iff, Scanner.startDue_iff,
    AirBay.travelDue_iff, AirBay.spinUpDue_iff, AirBay.silenceDue_iff, BayContext.limitDue_iff, BayContext.waitDue_iff,
    BayContext.purgeDue_iff⟩, fun s => ⟨?_, ?_, ?_, ?_, ?_, ?_, ?_, ?_, fun k => ⟨?_, fun hrep => ⟨?_, ?_⟩, ?_, ?_, ?_, ?_⟩,
    fun k => ⟨?_, ?_⟩, ?_, ?_, ?_, ?_, fun code => ⟨?_, ?_⟩⟩⟩
  · exact fun h => unchanged rfl (State.fillTimeout_not_due h)
  · exact fun h => unchanged rfl (State.dryFire_not_due h)
  · exact fun h => unchanged rfl (State.dwellElapsed_not_due h)
  · exact fun h => unchanged rfl (State.warmHoldExpiry_not_due h)
  · exact fun h => unchanged rfl (State.minOffExpiry_not_due h)
  · exact fun h => unchanged rfl (State.minRunExpiry_not_due h)
  · exact fun h => unchanged rfl (State.drainProgressCheck_not_due h)
  · exact fun h => unchanged rfl (State.scanStart_not_due h)
  · exact fun h => unchanged rfl (State.damperTravelEnd_not_due h)
  · exact fun h => unchanged rfl (State.silenceTimeout_not_due h hrep)
  · exact fun h => unchanged rfl (State.spinUpElapsed_not_due h hrep)
  · exact fun h => unchanged rfl (State.stepEndsOnLimit_not_due h)
  · exact fun h => unchanged rfl (State.waitTimeout_not_due h)
  · exact fun h => unchanged rfl (State.purgeEnd_not_due h)
  · exact fun h => unchanged rfl (State.blockingByAge_not_due h)
  · exact fun h => unchanged rfl (State.doorOpening_opened h)
  · exact fun h => unchanged rfl (State.doorClosing_shut h)
  · exact fun h => unchanged rfl (State.lowProbeDry_dry h)
  · exact fun h => unchanged rfl (State.lowProbeWet_wet h)
  · exact fun h => unchanged rfl (State.highProbeWet_wet h)
  · exact fun h => unchanged rfl (State.highProbeDry_dry h)
  · exact fun h => unchanged rfl (State.endConversion_none s code h)
  · exact fun h => unchanged rfl (if_neg h)

end Sys2Proof.Machine

/-!
PROOFS. The tick: what is due first, then every running timer by one, the inputs, and the stall reports (R18, R26, R30, R45, R53,
R54, R101 to R104, R107, R113, R115, R118, R120, R126 to R128, R131, R165).
-/

namespace Sys2Proof.Machine

/-! ## What a tick makes of one block -/

namespace BayContext

variable (b : BayContext) (limit : Nat)

theorem tick_counting (h : b.state = .active) : b.tick limit true = { b with
    stepRemaining := b.stepRemaining - 1, limitReached := decide (b.stepRemaining ≤ 1) } := by
  rw [tick, h]
  rfl

theorem tick_not_counting (h : b.state = .active) : b.tick limit false = b := by
  rw [tick, h]
  rfl

variable (c : Bool)

theorem tick_await (h : b.state = .await) : b.tick limit c = { b with
    waitElapsed := b.waitElapsed + 1, waitReached := decide (limit * 100 ≤ b.waitElapsed + 1) } := by
  rw [tick, h]

theorem tick_halted (h : b.state = .halted) : b.tick limit c = { b with
    purgeRemaining := if b.door = .shut then b.purgeRemaining.map (· - 1) else b.purgeRemaining } := by
  have hpurging : b.purging = true ↔ b.purgeRemaining.isSome = true ∧ b.door = .shut := by simp [purging, h]
  rw [tick, h]
  dsimp only
  by_cases hdoor : b.door = .shut
  · cases hp : b.purgeRemaining with
    | none => rw [if_neg fun hrun => absurd (hpurging.mp hrun).1 (by simp [hp]), if_pos hdoor, Option.map_none, ← hp, ← h]
    | some n => rw [if_pos (hpurging.mpr ⟨by simp [hp], hdoor⟩), if_pos hdoor]
  · rw [if_neg fun hrun => hdoor (hpurging.mp hrun).2, if_neg hdoor, ← h]

theorem tick_rest (h : b.state ∈ [.idle, .loaded, .held, .finished]) : b.tick limit c = b := by
  simp only [List.mem_cons, List.not_mem_nil, or_false] at h
  rcases h with h | h | h | h <;> rw [tick, h]

end BayContext

/-- A count finds no stall itself: the rows of silence and spin-up do (R127). -/
theorem AirBay.tick_stalled (a : AirBay) : a.tick.tacho.stalled = a.tacho.stalled := by
  rw [tick_eq]
  dsimp only
  split <;> rfl

theorem Debounce.complete_iff (d : Debounce) : d.complete = true ↔ 5 ≤ d.run := decide_eq_true_iff

namespace State

variable {s d : State} {k : Bay}

/-! ## The tick as a whole -/

theorem takeDue_not_owed (h : s.Settled) : s.takeDue.Settled := scanStart_not_owed (takeExpiries_not_owed h)

/-- Where the counts of the tick stand: what was due is settled and the inputs are sampled. -/
def counted (lines : Option Lines) (d : State) : State := (d.sampleInputs (lines.getD d.linesSeen)).countTick

theorem exec_tick (lines : Option Lines) (s : State) :
    exec (.tick lines) s = .next ((s.takeDue.counted lines).eachBay reportStall).settle := rfl

/-- The tick from the state `d` that what was due leaves; `d` stays a name, so that nothing unfolds it. -/
theorem exec_tick_of_due (lines : Option Lines) (hd : d = s.takeDue) :
    exec (.tick lines) s = .next ((d.counted lines).eachBay reportStall).settle := by
  rw [exec_tick, ← hd]

theorem reportStall_clear (h : (s.air k).tacho.stalled = false) : s.reportStall k = s :=
  if_neg (by rw [h]; exact Bool.false_ne_true)

theorem counted_bay (lines : Option Lines) (d : State) (k : Bay) :
    (d.counted lines).bay k = (d.bay k).tick d.arb.settings.waitTimeout (d.counts k) := PerBay.get_ofFn _ k

theorem counted_air (lines : Option Lines) (d : State) (k : Bay) : (d.counted lines).air k = (d.air k).tick :=
  PerBay.get_map _ _ k

theorem counted_request (lines : Option Lines) (d : State) (k : Bay) :
    (d.counted lines).arb.requests.get k = (d.arb.requests.get k).map (Entry.tick d.arb.settings) := PerBay.get_map _ _ k

theorem counted_door (lines : Option Lines) (d : State) (k : Bay) : (d.counted lines).inputs.door.get k =
    (d.inputs.door.get k).sample (decide ((d.bay k).door = .opened)) ((lines.getD d.linesSeen).doorHigh.get k) :=
  PerBay.get_ofFn _ k

theorem tick_quiet (lines : Option Lines) (hn : d.Settled) (h : ∀ k, (d.air k).tacho.stalled = false) :
    ((d.counted lines).eachBay reportStall).settle = d.counted lines := by
  have hclear (k : Bay) : ((d.counted lines).air k).tacho.stalled = false := by
    rw [counted_air, AirBay.tick_stalled, h k]
  rw [eachBay_idle fun k => reportStall_clear (hclear k)]
  exact settle_of_not_owed _ hn

end State

/-- Settles O55. -/
theorem aTickCountsEveryRunningTimerOnce : Obligations.ATickCountsEveryRunningTimerOnce := by
  unfold Obligations.ATickCountsEveryRunningTimerOnce
  refine ⟨fun lines s d hn hd => ⟨d.counted lines, ?exec, fun hclear => ?quiet, fun k => ?bay, fun k => ?request, rfl, rfl, rfl, rfl,
    rfl, rfl, fun k => ?air, rfl, rfl, rfl, rfl, rfl, rfl, rfl, rfl, fun l hl => ?inputs⟩,
    fun s => ⟨⟨_, (s.runsTo_due _).mpr rfl⟩, fun h => (s.runsTo_due s).mpr (State.takeDue_idle h).symm⟩,
    fun s k => ⟨?level, rfl, rfl⟩, Debounce.complete_iff,
    fun s k r hr => ⟨State.counts_steam s k hr, State.counts_dry s k hr, State.counts_plain s k hr⟩⟩
  case exec =>
    exact State.exec_tick_of_due lines ((s.runsTo_due d).mp hd)
  case quiet =>
    have hsettled : d.Settled := (s.runsTo_due d).mp hd ▸ State.takeDue_not_owed hn
    rw [State.exec_tick_of_due lines ((s.runsTo_due d).mp hd), State.tick_quiet lines hsettled hclear]
  case bay =>
    rw [State.counted_bay]
    exact ⟨fun h hc => hc ▸ BayContext.tick_counting _ _ h, fun h hc => hc ▸ BayContext.tick_not_counting _ _ h,
      BayContext.tick_await _ _ _, BayContext.tick_halted _ _ _, BayContext.tick_rest _ _ _⟩
  case request => exact State.counted_request lines d k
  case air => rw [State.counted_air, AirBay.tick_eq]
  case inputs =>
    subst hl
    exact ⟨fun k => State.counted_door lines d k, rfl, rfl⟩
  case level => exact PerBay.get_map _ _ k

end Sys2Proof.Machine
